-- ==== Sys2Proof/Config.lean ====
section
/-! DEFINITION. What is fixed for the hardware (00_scope.md R8, R10). The spec leaves no value free (43_sponge_commands.md
R193), so no constant here is opaque; the two OPEN parameters stand at the spec's defaults (log 9). -/

namespace Sys2Proof.Config

/-- `B`, the width of the Keccak state in bits (R8). -/
abbrev stateBits : Nat := 1600

/-- `W`, the width of a lane in bits (R8). -/
abbrev laneBits : Nat := 64

/-- `NLANES` (R8). -/
abbrev nLanes : Nat := 25

/-- `NR`, the number of rounds (R8). -/
abbrev nRounds : Nat := 24

/-- `STATE_BYTES` (R8). -/
abbrev stateBytes : Nat := 200

/-- `MAX_RATE`: the queue has `MAX_RATE / 8` bytes (R10, decision D5). DESIGN CHOICE, safe: the default (log 9). -/
abbrev maxRate : Nat := 1600

/-- `LEN_BITS`, the width of `BITLEN` and `OUTLEN` (R10, decision D7). DESIGN CHOICE, safe: the default (log 9). -/
abbrev lenBits : Nat := 60

end Sys2Proof.Config
end

