-- ==== Sys2Proof/Word.lean ====
section
/-! DEFINITION. The widths the spec gives things (00_scope.md R8, R12; 10_state.md R20; 30_encoding.md R82). -/

namespace Sys2Proof

/-- A lane of the Keccak state: 64 bits (00_scope.md R8). -/
abbrev Lane := BitVec 64

/-- A byte of the state, of the queue or of a payload; bit 0 is the least significant (R12). -/
abbrev Byte := BitVec 8

/-- A command word `CW` (30_encoding.md R82). -/
abbrev CmdWord := BitVec 64

/-- The 11-bit unsigned fields `rate`, `capacity`, `bits_in_queue`, `bits_for_squeezing` (10_state.md R20). -/
abbrev Cursor := BitVec 11

/-- The 25 lanes `A[0..24]`; lane `(x, y)` stands at index `x + 5*y` (10_state.md R21). -/
abbrev Lanes := Vector Lane 25

/-- 200 bytes: the queue `Q[0..199]` (R24) or the byte view `S[0..199]` of the lanes (20_memory.md R50). -/
abbrev Bytes200 := Vector Byte 200

/-- `ceil8(n)`, the number of bytes that carry `n` bits (00_scope.md R13). -/
def ceil8 (n : Nat) : Nat := (n + 7) / 8

/-- The vector whose entry `i` is `f i`. Irreducible, so that no unification runs through 25 lanes or 200 bytes: read an
entry by `tabulate_get` (Sys2Proof/Laws/Ops.lean). A list underneath, which the kernel evaluates entry by entry. -/
@[irreducible] def tabulate {α : Type} {n : Nat} (f : Fin n → α) : Vector α n :=
  ⟨⟨List.ofFn f⟩, by simp⟩

end Sys2Proof
end

