-- ==== Sys2Proof/Syntax.lean ====
section
/-! DEFINITION. The host-visible instruction set: the five abstract commands (30_encoding.md R80), one constructor per row
of spec/opcode_table.json. An operand has the width of its field (R83 to R87), so it is in range by its type. -/

namespace Sys2Proof

/-- One host command with its payload (R80). -/
inductive Instr where
  /-- `CONFIG RATE, CAP`: rate and capacity in bits (R83, R160). -/
  | config (rate cap : BitVec 16)
  /-- `ABSORB BITLEN, data`: a bit count and the payload bytes (R84, R165). -/
  | absorb (bitlen : BitVec 60) (data : List Byte)
  /-- `SQUEEZE OUTLEN`: a byte count (R84, R175). -/
  | squeeze (outlen : BitVec 60)
  /-- `RESET` (R85, R185). -/
  | reset
  /-- `RDSR IDX`: a status register index (R86, R190). -/
  | rdsr (idx : BitVec 8)
  deriving DecidableEq, Repr

end Sys2Proof
end

