-- ==== Sys2Proof/Machine/State.lean ====
section
/-! DEFINITION. The state: every field of 10_state.md R20 under its own name, and the model's own fields for the host's
side (log 1, log 2). Plain data. -/

namespace Sys2Proof.Machine

/-- The status a command completes with (60_exceptions.md R200). -/
inductive Status where
  | ok
  | invalidState
  | invalidLength
  | invalidConfig
  | invalidCommand
  deriving DecidableEq, Repr

/-- The response to one command: its status and the payload bytes on `DOUT` (30_encoding.md R88). -/
structure Response where
  status : Status
  payload : List Byte
  deriving DecidableEq, Repr

/-- One thing the host presents: a command word (R82), or a strike of the hard reset (70_reset_and_hazards.md R230). -/
inductive HostEvent where
  | word (w : CmdWord)
  | hardReset
  deriving DecidableEq, Repr

/-- The engine (the first eight fields: 10_state.md R20, "Nothing else is state") and, beside it, the host's list with its
pointer, the input stream and the responses. -/
structure State where
  /-- The lanes `A[0..24]` (R21); the bytes `S[0..199]` are a view of them (20_memory.md R50). -/
  A : Lanes
  /-- The data queue `Q[0..199]` (R24). -/
  Q : Bytes200
  /-- `rate` in bits (R27). -/
  rate : Cursor
  /-- `capacity` in bits (R28). -/
  capacity : Cursor
  /-- `bits_in_queue` (R29). -/
  bitsInQueue : Cursor
  /-- `bits_for_squeezing` (R30). -/
  bitsForSqueezing : Cursor
  /-- `squeezing`, the phase: false Absorbing, true Squeezing (R31). -/
  squeezing : Bool
  /-- `configured` (R32). -/
  configured : Bool
  /-- The command pointer `CP`: completed commands, failed ones too (R40). Bookkeeping, no register. -/
  cp : Nat
  /-- What the host has still to present, in order (log 1). -/
  host : List HostEvent
  /-- The bytes on the input stream `DIN`, in order (R57; log 1). -/
  din : List Byte
  /-- The responses produced, oldest first; their payloads in order are the output stream `DOUT` (R57; log 2). -/
  responses : List Response
  deriving DecidableEq, Repr

/-- The engine has no fault: the five statuses are results of a step (60_exceptions.md R217), so there is no constructor
and no step ends in one. -/
inductive Fault : Type
  deriving DecidableEq, Repr

/-- Why a step gives an instruction no meaning. -/
inductive Refusal where
  /-- An arm of `exec` whose instruction has no meaning yet: raised by no arm of this model. Safe: the machine stops. -/
  | notModelled (mnemonic : String)
  /-- The ill-formed abstract `ABSORB` whose payload is shorter than `ceil8(BITLEN)` bytes, which is not a command
  (30_encoding.md R81, 60_exceptions.md R217). Raised by `execAbsorb`; no decoded word leads to it. Safe: the machine stops. -/
  | payloadTooShort
  deriving DecidableEq, Repr

/-- Right after hard reset (10_state.md R43, 70_reset_and_hazards.md R230): every engine field zero, `CP` at 0 (R40). The
host's side is empty, which is the model's choice (log 1, log 2). -/
def State.reset : State where
  A := Vector.replicate 25 0
  Q := Vector.replicate 200 0
  rate := 0
  capacity := 0
  bitsInQueue := 0
  bitsForSqueezing := 0
  squeezing := false
  configured := false
  cp := 0
  host := []
  din := []
  responses := []

end Sys2Proof.Machine
end

