-- ==== Sys2Proof/Machine/Ops.lean ====
section
/-! DEFINITION. The named operations over the lanes, their byte view, the queue and the response: the state access
primitives of 00_scope.md R14, the completion of a command (R15) and, as one shared operation, its failure
(60_exceptions.md R203). There is no return from an error: after any status the engine is idle (R208). -/

namespace Sys2Proof.Machine

/-! ### Lanes and bytes (20_memory.md R50 to R52) -/

/-- `A[x,y] = A[(x mod 5) + 5*(y mod 5)]` (10_state.md R21). -/
def laneAt (A : Lanes) (x y : Nat) : Lane := A[x % 5 + 5 * (y % 5)]'(by omega)

/-- `S[j]`, byte `j` of the state: bits `8k+7 : 8k` of lane `i`, for `j = 8*i + k` (R50, first line). -/
def sByte (A : Lanes) (j : Fin 200) : Byte :=
  (A[j.val / 8]'(by omega)).extractLsb' (8 * (j.val % 8)) 8

/-- `bytes_of_lanes` (R52). -/
def bytesOfLanes (A : Lanes) : Bytes200 := tabulate (sByte A)

/-- Lane `i` of 200 bytes: the bytes `8i` to `8i+7`, least significant first (R50, second line). -/
def laneOfBytes (b : Bytes200) (i : Fin 25) : Lane :=
  (b[8 * i.val]'(by omega)).setWidth 64
    ||| (b[8 * i.val + 1]'(by omega)).setWidth 64 <<< 8
    ||| (b[8 * i.val + 2]'(by omega)).setWidth 64 <<< 16
    ||| (b[8 * i.val + 3]'(by omega)).setWidth 64 <<< 24
    ||| (b[8 * i.val + 4]'(by omega)).setWidth 64 <<< 32
    ||| (b[8 * i.val + 5]'(by omega)).setWidth 64 <<< 40
    ||| (b[8 * i.val + 6]'(by omega)).setWidth 64 <<< 48
    ||| (b[8 * i.val + 7]'(by omega)).setWidth 64 <<< 56

/-- `lanes_of_bytes` (R52). -/
def lanesOfBytes (b : Bytes200) : Lanes := tabulate (laneOfBytes b)

/-- The XOR of R140: `S[j] <- S[j] ^ block[j]` for `j < n`, the other bytes kept. -/
def xorBlock (n : Nat) (block : List Byte) (A : Lanes) : Lanes :=
  lanesOfBytes (tabulate fun j => if j.val < n then sByte A j ^^^ block.getD j.val 0 else sByte A j)

/-! ### The queue (10_state.md R24, 20_memory.md R53) -/

/-- The queue with all 200 bytes zero. -/
def zeroQueue : Bytes200 := Vector.replicate 200 0

/-- `Q[off .. off+n-1] <- bs`, for `bs` of `n` bytes. -/
def writeQueue (off : Nat) (bs : List Byte) (Q : Bytes200) : Bytes200 :=
  tabulate fun j => if off ≤ j.val ∧ j.val < off + bs.length then bs.getD (j.val - off) 0 else Q[j]

/-- `Q[off .. off+n-1]`. -/
def readQueue (off n : Nat) (Q : Bytes200) : List Byte := (Q.toList.drop off).take n

/-- `Qbit(p)`, bit `p mod 8` of `Q[p div 8]` (R53). -/
def qbit (Q : Bytes200) (p : Nat) : Bool := (Q.toList.getD (p / 8) 0).getLsbD (p % 8)

/-- `set Qbit(p)`: `Q[p div 8] <- Q[p div 8] | (1 << (p mod 8))` (R53). -/
def setQbit (p : Nat) (Q : Bytes200) : Bytes200 :=
  tabulate fun j => if j.val = p / 8 then Q[j] ||| 1#8 <<< (p % 8) else Q[j]

/-- The bits of byte `j` that stay when the positions `lo .. hi-1` are cleared. -/
def keepMask (lo hi j : Nat) : Byte :=
  BitVec.ofFnLE fun k : Fin 8 => !(decide (lo ≤ 8 * j + k.val) && decide (8 * j + k.val < hi))

/-- `for q in lo .. hi-1: clear Qbit(q)` (R53, 42_block_ops.md R151), byte by byte. -/
def clearQbits (lo hi : Nat) (Q : Bytes200) : Bytes200 :=
  tabulate fun j => Q[j] &&& keepMask lo hi j.val

/-! ### Fields -/

/-- `A <- A'`. -/
def State.setLanes (s : State) (A : Lanes) : State := { s with A := A }

/-- `Q <- Q'`. -/
def State.setQueue (s : State) (Q : Bytes200) : State := { s with Q := Q }

/-- `bits_in_queue <- n`. -/
def State.setBitsInQueue (s : State) (n : Nat) : State := { s with bitsInQueue := BitVec.ofNat 11 n }

/-- `bits_for_squeezing <- n`. -/
def State.setBitsForSqueezing (s : State) (n : Nat) : State := { s with bitsForSqueezing := BitVec.ofNat 11 n }

/-- `squeezing <- b`. -/
def State.setSqueezing (s : State) (b : Bool) : State := { s with squeezing := b }

/-- `A[0..24] <- 0; Q[0..199] <- 0; bits_in_queue <- 0; bits_for_squeezing <- 0; squeezing <- 0`: what `CONFIG` (R160),
`RESET` (R185) and hard reset (R230) share. -/
def clearSession (s : State) : State :=
  { s with A := Vector.replicate 25 0, Q := zeroQueue, bitsInQueue := 0, bitsForSqueezing := 0, squeezing := false }

/-- Hard reset (70_reset_and_hazards.md R230, the first column of 10_state.md R43): every engine field zero, no response.
The host's side stays as it is (log 5). -/
def hardReset (s : State) : State :=
  { clearSession s with rate := 0, capacity := 0, configured := false }

/-! ### Completion (00_scope.md R15) -/

/-- `complete(st, out)`: the response is produced and `CP` rises by 1 (10_state.md R40). -/
def complete (st : Status) (out : List Byte) (s : State) : State :=
  { s with cp := s.cp + 1, responses := s.responses ++ [⟨st, out⟩] }

/-- `fail(st)`: taking an exception on this hardware (60_exceptions.md R200 to R203): the status, no payload, no change of
the engine. -/
def fail (st : Status) (s : State) : State := complete st [] s

/-- The 3-bit number of a status (R200). -/
def statusCode : Status → BitVec 3
  | .ok => 0
  | .invalidState => 1
  | .invalidLength => 2
  | .invalidConfig => 3
  | .invalidCommand => 4

/-- The output stream `DOUT`: the payloads of the responses, in order (20_memory.md R57). -/
def dout (s : State) : List Byte := s.responses.flatMap Response.payload

end Sys2Proof.Machine
end

