-- ==== Sys2Proof/Machine/Permutation.lean ====
section
/-! DEFINITION. The Permutation Engine (41_permutation.md R110 to R126): pure functions of the 25 lanes. Every right-hand
side is evaluated on the lanes before the step (R111). -/

namespace Sys2Proof.Machine

/-- `ROTL64(a, n)` for `0 <= n <= 63`; `n = 0` is the identity and no shift by 64 (R112). -/
def rotl64 (a : Lane) (n : Nat) : Lane := if n = 0 then a else a <<< n ||| a >>> (64 - n)

/-- `C[x]`, the parity of column `x` (R113). -/
def columnParity (A : Lanes) (x : Nat) : Lane :=
  laneAt A x 0 ^^^ laneAt A x 1 ^^^ laneAt A x 2 ^^^ laneAt A x 3 ^^^ laneAt A x 4

/-- `THETA` (R113): all `C`, then all `D`, then the update. -/
def theta (A : Lanes) : Lanes :=
  let C : Vector Lane 5 := tabulate fun x => columnParity A x.val
  let D : Vector Lane 5 :=
    tabulate fun x => rotl64 (C[(x.val + 1) % 5]'(by omega)) 1 ^^^ C[(x.val + 4) % 5]'(by omega)
  tabulate fun i => A[i] ^^^ D[i.val % 5]'(by omega)

/-- `RHO_OFFSET[x + 5*y]` (R114). TESTED, unsafe if a value is wrong: supplied by the spec from general knowledge and checked
there against the source's known answer (log 8). -/
def rhoOffset : Vector Nat 25 :=
  #v[ 0,  1, 62, 28, 27,
     36, 44,  6, 55, 20,
      3, 10, 43, 25, 39,
     41, 45, 15, 21,  8,
     18,  2, 61, 56, 14]

/-- `RHO` (R116): every lane rotated by its own offset. -/
def rho (A : Lanes) : Lanes := tabulate fun i => rotl64 A[i] rhoOffset[i]

/-- `PI` (R117): the lane at `(x, y)` moves to `(y, (2x + 3y) mod 5)`. Read from the destination `(X, Y)`, the source is
`y = X` and `x = X + 3Y` modulo 5. -/
def pi (A : Lanes) : Lanes :=
  tabulate fun d => laneAt A (d.val % 5 + 3 * (d.val / 5)) (d.val % 5)

/-- `CHI` (R119): in each row, `T[x] ^ (~T[x+1] & T[x+2])` of the row before the step. -/
def chi (A : Lanes) : Lanes :=
  tabulate fun i =>
    laneAt A i.val (i.val / 5) ^^^ (~~~ laneAt A (i.val + 1) (i.val / 5) &&& laneAt A (i.val + 2) (i.val / 5))

/-- The lane with exactly these bits set. -/
def laneWithBits (positions : List Nat) : Lane := positions.foldl (fun v p => v ||| 1#64 <<< p) 0

/-- `RC[r]` (R120), each entry by the positions of its set bits: only bits 0, 1, 3, 7, 15, 31 and 63 can be 1. The value as
R120 lists it stands beside each. TESTED, unsafe if a value is wrong: as `rhoOffset` (log 8). -/
def roundConstant : Vector Lane 24 :=
  #v[
    laneWithBits [0],                       -- 0: 0x0000000000000001
    laneWithBits [1, 7, 15],                -- 1: 0x0000000000008082
    laneWithBits [1, 3, 7, 15, 63],         -- 2: 0x800000000000808A
    laneWithBits [15, 31, 63],              -- 3: 0x8000000080008000
    laneWithBits [0, 1, 3, 7, 15],          -- 4: 0x000000000000808B
    laneWithBits [0, 31],                   -- 5: 0x0000000080000001
    laneWithBits [0, 7, 15, 31, 63],        -- 6: 0x8000000080008081
    laneWithBits [0, 3, 15, 63],            -- 7: 0x8000000000008009
    laneWithBits [1, 3, 7],                 -- 8: 0x000000000000008A
    laneWithBits [3, 7],                    -- 9: 0x0000000000000088
    laneWithBits [0, 3, 15, 31],            -- 10: 0x0000000080008009
    laneWithBits [1, 3, 31],                -- 11: 0x000000008000000A
    laneWithBits [0, 1, 3, 7, 15, 31],      -- 12: 0x000000008000808B
    laneWithBits [0, 1, 3, 7, 63],          -- 13: 0x800000000000008B
    laneWithBits [0, 3, 7, 15, 63],         -- 14: 0x8000000000008089
    laneWithBits [0, 1, 15, 63],            -- 15: 0x8000000000008003
    laneWithBits [1, 15, 63],               -- 16: 0x8000000000008002
    laneWithBits [7, 63],                   -- 17: 0x8000000000000080
    laneWithBits [1, 3, 15],                -- 18: 0x000000000000800A
    laneWithBits [1, 3, 31, 63],            -- 19: 0x800000008000000A
    laneWithBits [0, 7, 15, 31, 63],        -- 20: 0x8000000080008081
    laneWithBits [7, 15, 63],               -- 21: 0x8000000000008080
    laneWithBits [0, 31],                   -- 22: 0x0000000080000001
    laneWithBits [3, 15, 31, 63]]           -- 23: 0x8000000080008008

/-- `IOTA(r)` (R122): `A[0] <- A[0] ^ RC[r]`. -/
def iota (r : Fin 24) (A : Lanes) : Lanes := A.set 0 (A[0] ^^^ roundConstant[r])

/-- `ROUND(r)`: `THETA; RHO; PI; CHI; IOTA(r)` (R123). -/
def keccakRound (r : Fin 24) (A : Lanes) : Lanes := iota r (chi (pi (rho (theta A))))

/-- `PERMUTE`: the rounds 0, 1, ..., 23 in this order (R124). Irreducible so that no unification runs the 24 rounds; simp and
unfold open it by name, the kernel evaluates it. -/
@[irreducible] def permute (A : Lanes) : Lanes := (List.finRange 24).foldl (fun B r => keccakRound r B) A

end Sys2Proof.Machine
end

