-- ==== Sys2Proof/Machine/BlockOps.lean ====
section
/-! DEFINITION. Block absorption, block extraction and padding (42_block_ops.md R140 to R155). They cannot fail. -/

namespace Sys2Proof.Machine

/-- `rate/8`, the number of bytes of a block. -/
def blockBytes (s : State) : Nat := s.rate.toNat / 8

/-- `PERMUTE` on the engine's lanes. -/
def permuteState (s : State) : State := s.setLanes (permute s.A)

/-- `ABSORB_BLOCK(block)` (R140): XOR into `S[0 .. rate/8-1]`, then `PERMUTE`. -/
def absorbBlock (block : List Byte) (s : State) : State :=
  permuteState (s.setLanes (xorBlock (blockBytes s) block s.A))

/-- `ABSORB_QUEUE` (R142): absorb `Q[0 .. rate/8-1]`, `bits_in_queue <- 0`; `Q` is kept. -/
def absorbQueue (s : State) : State :=
  (absorbBlock (readQueue 0 (blockBytes s) s.Q) s).setBitsInQueue 0

/-- `EXTRACT(n)`: the bytes `S[0 .. n-1]` (R144). -/
def extract (n : Nat) (A : Lanes) : List Byte := (bytesOfLanes A).toList.take n

/-- `EXTRACT_TO_QUEUE` (R145): `Q[0 .. rate/8-1] <- EXTRACT(rate/8)`, `bits_for_squeezing <- rate`. -/
def extractToQueue (s : State) : State :=
  (s.setQueue (writeQueue 0 (extract (blockBytes s) s.A) s.Q)).setBitsForSqueezing s.rate.toNat

/-- R151: the queue with the pad of the general case, `p + 1 < rate`: bit `p` set, the bits between cleared, bit
`rate - 1` set. -/
def padQueue (p rate : Nat) (Q : Bytes200) : Bytes200 :=
  setQbit (rate - 1) (clearQbits (p + 1) (rate - 1) (setQbit p Q))

/-- R151: pad and absorb one block. -/
def padGeneral (s : State) : State :=
  absorbQueue (s.setQueue (padQueue s.bitsInQueue.toNat s.rate.toNat s.Q))

/-- R152: exactly one free bit. The first pad bit fills it and the block is absorbed; the trailing pad bit goes alone into a
further block (90_conflicts.md C1). -/
def padSpecial (s : State) : State :=
  let first := absorbQueue (s.setQueue (setQbit (s.rate.toNat - 1) s.Q))
  absorbQueue (first.setQueue (setQbit (s.rate.toNat - 1) zeroQueue))

/-- R153: `Q[0 .. 199] <- 0; EXTRACT_TO_QUEUE; squeezing <- 1`. -/
def switchToSqueeze (s : State) : State :=
  (extractToQueue (s.setQueue zeroQueue)).setSqueezing true

/-- `PAD_AND_SWITCH` (R150). -/
def padAndSwitch (s : State) : State :=
  switchToSqueeze (if s.bitsInQueue.toNat + 1 < s.rate.toNat then padGeneral s else padSpecial s)

end Sys2Proof.Machine
end

