-- ==== Sys2Proof/Machine/Flags.lean ====
section
/-! DEFINITION. The two flags `squeezing` and `configured` and what the commands test of them (10_state.md R31 to R33,
43_sponge_commands.md R166, R192). There is no condition code and no flag an arithmetic sets. -/

namespace Sys2Proof.Machine

/-- The preconditions of `ABSORB` (R166): configured, a byte-aligned queue, still absorbing. -/
def absorbAllowed (s : State) : Bool :=
  s.configured && s.bitsInQueue.toNat % 8 == 0 && !s.squeezing

/-- The states of the session protocol (R192). -/
inductive Protocol where
  /-- `U`: unconfigured. -/
  | unconfigured
  /-- `AB`: absorbing, byte-aligned queue. -/
  | absorbing
  /-- `AF`: absorbing, a sub-byte fragment queued. -/
  | fragment
  /-- `SQ`: squeezing. -/
  | squeezing
  deriving DecidableEq, Repr

/-- Where a state stands in the session protocol (R192). -/
def protocol (s : State) : Protocol :=
  if !s.configured then .unconfigured
  else if s.squeezing then .squeezing
  else if s.bitsInQueue.toNat % 8 = 0 then .absorbing
  else .fragment

end Sys2Proof.Machine
end

