-- ==== Sys2Proof/Machine/Operands.lean ====
section
/-! DEFINITION. Every operand form: the parameters of `CONFIG` (43_sponge_commands.md R161), the payload of `ABSORB`
(20_memory.md R54, R171), the status register index of `RDSR` (10_state.md R34, 20_memory.md R55). -/

namespace Sys2Proof.Machine

/-- `config_ok(RATE, CAP)` (R161); the sum is exact. -/
def configOk (rate cap : BitVec 16) : Bool :=
  rate.toNat + cap.toNat == Config.stateBits && rate.toNat % Config.laneBits == 0 && rate.toNat != 0

/-- Bit `k` of a payload: bit `k mod 8` of `data[k div 8]` (R54). -/
def payloadBit (data : List Byte) (k : Nat) : Bool := (data.getD (k / 8) 0).getLsbD (k % 8)

/-- `b & ((1 << m) - 1)`: the `m` low bits of a partial final byte (R54, R171). -/
def fragment (m : Nat) (b : Byte) : Byte := b &&& (1#8 <<< m - 1#8)

/-- The bytes of a 64-bit value, least significant first (R55). -/
def bytesLE (v : BitVec 64) : List Byte :=
  [v.extractLsb' 0 8, v.extractLsb' 8 8, v.extractLsb' 16 8, v.extractLsb' 24 8,
    v.extractLsb' 32 8, v.extractLsb' 40 8, v.extractLsb' 48 8, v.extractLsb' 56 8]

/-- `CTRL`: bit 0 `configured`, bit 1 `squeezing`, the rest zero (R34). -/
def ctrlWord (s : State) : BitVec 64 :=
  (BitVec.ofBool s.squeezing).setWidth 64 <<< 1 ||| (BitVec.ofBool s.configured).setWidth 64

/-- The status register of an index, `none` for a reserved one (R34). -/
def statusRegister (idx : BitVec 8) (s : State) : Option (BitVec 64) :=
  if idx = 0 then some (ctrlWord s)
  else if idx = 1 then some (s.rate.setWidth 64)
  else if idx = 2 then some (s.capacity.setWidth 64)
  else if idx = 3 then some (s.bitsInQueue.setWidth 64)
  else if idx = 4 then some (s.bitsForSqueezing.setWidth 64)
  else if 32 ≤ idx.toNat then s.A[idx.toNat - 32]?
  else none

end Sys2Proof.Machine
end

