-- ==== Sys2Proof/Machine/Absorb.lean ====
section
/-! DEFINITION. `ABSORB` (43_sponge_commands.md R165 to R174). `rem` is `BITLEN - i`, the bits not consumed yet, and `data`
the payload from input bit `i` on. -/

namespace Sys2Proof.Machine

/-- R169, the copy of regime 2: `n/8` whole bytes into the queue at `bits_in_queue`. -/
def fillQueue (n : Nat) (data : List Byte) (s : State) : State :=
  (s.setQueue (writeQueue (s.bitsInQueue.toNat / 8) (data.take (n / 8)) s.Q)).setBitsInQueue (s.bitsInQueue.toNat + n)

/-- R170: a full queue is absorbed at once. -/
def flushFullQueue (s : State) : State := if s.bitsInQueue = s.rate then absorbQueue s else s

/-- R171, regime 3: the `m` low bits of the next byte become the last queue byte. -/
def storeFragment (m : Nat) (b : Byte) (s : State) : State :=
  (s.setQueue (writeQueue (s.bitsInQueue.toNat / 8) [fragment m b] s.Q)).setBitsInQueue (s.bitsInQueue.toNat + m)

/-- `min(BITLEN - i, rate - bits_in_queue)`, the bits that fit (R169). -/
def bitsThatFit (rem : Nat) (s : State) : Nat := min rem (s.rate.toNat - s.bitsInQueue.toNat)

/-- One iteration through the queue: regime 2 (R169, R170), and regime 3 (R171) if a sub-byte remainder is left. -/
def absorbPartial (rem : Nat) (data : List Byte) (s : State) : State :=
  let m := bitsThatFit rem s % 8
  let n := bitsThatFit rem s - m
  let s' := flushFullQueue (fillQueue n data s)
  if 0 < m then storeFragment m (data.getD (n / 8) 0) s' else s'

/-- The main loop (R167 to R171). Each iteration consumes at least one bit (R191), so `fuel = BITLEN` is enough; in states no
run reaches, where an iteration may consume none, the loop ends with the fuel (log 7). -/
def absorbLoop : (fuel rem : Nat) → List Byte → State → State
  | 0, _, _, s => s
  | fuel + 1, rem, data, s =>
    if rem = 0 then s
    else if s.bitsInQueue = 0 ∧ s.rate.toNat ≤ rem then
      absorbLoop fuel (rem - s.rate.toNat) (data.drop (blockBytes s)) (absorbBlock (data.take (blockBytes s)) s)
    else
      absorbLoop fuel (rem - bitsThatFit rem s) (data.drop (bitsThatFit rem s / 8)) (absorbPartial rem data s)

/-- `ABSORB BITLEN, data` (R165): refused when ill formed (30_encoding.md R81), `InvalidState` when a precondition fails
(R166), else the loop and `OK`. -/
def execAbsorb (bitlen : BitVec 60) (data : List Byte) (s : State) : Host.Outcome State Fault Refusal :=
  if data.length < ceil8 bitlen.toNat then .refused .payloadTooShort
  else if absorbAllowed s then .next (complete .ok [] (absorbLoop bitlen.toNat bitlen.toNat data s))
  else .next (fail .invalidState s)

end Sys2Proof.Machine
end

