-- ==== Sys2Proof/Machine/Session.lean ====
section
/-! DEFINITION. The commands that set up and observe a session: `CONFIG` (43_sponge_commands.md R160 to R162), `RESET` (R185)
and `RDSR` (R190). -/

namespace Sys2Proof.Machine

/-- `CONFIG RATE, CAP` (R160): a new instance with an all-zero state, or `InvalidConfig` and no change. -/
def execConfig (rate cap : BitVec 16) (s : State) : Host.Outcome State Fault Refusal :=
  if configOk rate cap then
    .next (complete .ok []
      { clearSession s with rate := rate.setWidth 11, capacity := cap.setWidth 11, configured := true })
  else .next (fail .invalidConfig s)

/-- `RESET` (R185): a new session with the same parameters, or `InvalidState` where there is no instance. -/
def execReset (s : State) : Host.Outcome State Fault Refusal :=
  if s.configured then .next (complete .ok [] (clearSession s))
  else .next (fail .invalidState s)

/-- `RDSR IDX` (R190): the status register's eight bytes, or `InvalidCommand` for a reserved index. -/
def execRdsr (idx : BitVec 8) (s : State) : Host.Outcome State Fault Refusal :=
  match statusRegister idx s with
  | some v => .next (complete .ok (bytesLE v) s)
  | none => .next (fail .invalidCommand s)

end Sys2Proof.Machine
end

