-- ==== Sys2Proof/Machine/Squeeze.lean ====
section
/-! DEFINITION. `SQUEEZE` (43_sponge_commands.md R175 to R180). `want` is `OUTLEN - len(out)`. -/

namespace Sys2Proof.Machine

/-- When no undelivered byte is left: `PERMUTE; EXTRACT_TO_QUEUE` (R175, R177). -/
def refill (s : State) : State :=
  if s.bitsForSqueezing = 0 then extractToQueue (permuteState s) else s

/-- The bytes one iteration delivers, `Q[o .. o + n/8 - 1]` (R175). -/
def nextBytes (want : Nat) (s : State) : List Byte :=
  readQueue ((s.rate.toNat - s.bitsForSqueezing.toNat) / 8) (min s.bitsForSqueezing.toNat (8 * want) / 8) s.Q

/-- `bits_for_squeezing <- bits_for_squeezing - n` (R175). -/
def deliver (want : Nat) (s : State) : State :=
  s.setBitsForSqueezing (s.bitsForSqueezing.toNat - min s.bitsForSqueezing.toNat (8 * want))

/-- The loop (R175, R177): the bytes it returns, in order, and the state after it. Each iteration appends at least one byte
(R191), so `fuel = OUTLEN` is enough; in states no run reaches the loop ends with the fuel (log 7). -/
def squeezeLoop : (fuel want : Nat) → State → List Byte × State
  | 0, _, s => ([], s)
  | fuel + 1, want, s =>
    if want = 0 then ([], s)
    else
      let ready := refill s
      let chunk := nextBytes want ready
      let rest := squeezeLoop fuel (want - chunk.length) (deliver want ready)
      (chunk ++ rest.1, rest.2)

/-- The lazy padding of the first `SQUEEZE` of a session (R176). -/
def enterSqueezing (s : State) : State := if s.squeezing then s else padAndSwitch s

/-- `SQUEEZE OUTLEN` (R175): `InvalidState` where there is no instance, else the next `OUTLEN` bytes of the output. -/
def execSqueeze (outlen : BitVec 60) (s : State) : Host.Outcome State Fault Refusal :=
  if s.configured then
    let r := squeezeLoop outlen.toNat outlen.toNat (enterSqueezing s)
    .next (complete .ok r.1 r.2)
  else .next (fail .invalidState s)

end Sys2Proof.Machine
end

