-- ==== Sys2Proof/Machine/Dispatch.lean ====
section
/-! DEFINITION. One arm per command, each one direct call of its meaning. -/

namespace Sys2Proof.Machine

def exec (i : Instr) (s : State) : Host.Outcome State Fault Refusal :=
  match i with
  | .config rate cap => Sys2Proof.Machine.execConfig rate cap s
  | .absorb bitlen data => Sys2Proof.Machine.execAbsorb bitlen data s
  | .squeeze outlen => Sys2Proof.Machine.execSqueeze outlen s
  | .reset => Sys2Proof.Machine.execReset s
  | .rdsr idx => Sys2Proof.Machine.execRdsr idx s

end Sys2Proof.Machine
end

