-- ==== Sys2Proof/WellFormed.lean ====
section
/-! DEFINITION. When a command is well formed (30_encoding.md R81). -/

namespace Sys2Proof

/-- R81: the operands are in range (they are, by their types) and an `ABSORB` has at least `ceil8(BITLEN)` payload bytes. -/
def Instr.wellFormed : Instr → Bool
  | .config _ _ => true
  | .absorb bitlen data => decide (ceil8 bitlen.toNat ≤ data.length)
  | .squeeze _ => true
  | .reset => true
  | .rdsr _ => true

end Sys2Proof
end

