-- ==== Sys2Proof/Decode.lean ====
section
/-! DEFINITION. Command words and their payload to commands and back (30_encoding.md R82 to R92). Decoding is total: a word
that matches no row is `reserved` (R90, R91), and nothing of the engine's state enters it. -/

namespace Sys2Proof

/-- What the engine reads from the command word presented and the bytes on `DIN`. -/
inductive Decoded where
  /-- No row of R89 matches (R91). -/
  | reserved
  /-- An `ABSORB` word whose `ceil8(BITLEN)` payload bytes are not all on `DIN` yet: the engine waits for them
  (70_reset_and_hazards.md R243). -/
  | waiting
  /-- A command with its payload, and what is left on `DIN` after it. -/
  | command (i : Instr) (din : List Byte)
  deriving DecidableEq, Repr

/-- R89: a word matches a row when `CW & mask = match`. -/
def rowMatches (mask pattern w : CmdWord) : Bool := w &&& mask == pattern

def configMask : CmdWord := 0xFFFFFFFF00000000
def configMatch : CmdWord := 0x1000000000000000
def absorbMask : CmdWord := 0xF000000000000000
def absorbMatch : CmdWord := 0x2000000000000000
def squeezeMask : CmdWord := 0xF000000000000000
def squeezeMatch : CmdWord := 0x3000000000000000
def resetMask : CmdWord := 0xFFFFFFFFFFFFFFFF
def resetMatch : CmdWord := 0x4000000000000000
def rdsrMask : CmdWord := 0xFFFFFFFFFFFFFF00
def rdsrMatch : CmdWord := 0x5000000000000000

/-- `OPC`, bits 63:60 in every format (R82). -/
def fieldOpc (w : CmdWord) : BitVec 4 := w.extractLsb' 60 4

/-- `RATE`, bits 15:0 of format C (R83). -/
def fieldRate (w : CmdWord) : BitVec 16 := w.extractLsb' 0 16

/-- `CAP`, bits 31:16 of format C (R83). -/
def fieldCap (w : CmdWord) : BitVec 16 := w.extractLsb' 16 16

/-- `LEN`, bits 59:0 of format L (R84). -/
def fieldLen (w : CmdWord) : BitVec 60 := w.extractLsb' 0 60

/-- `IDX`, bits 7:0 of format R (R86). -/
def fieldIdx (w : CmdWord) : BitVec 8 := w.extractLsb' 0 8

/-- How many payload bytes follow a word on `DIN` (R88): `ceil8(BITLEN)` after an `ABSORB` word, none after any other. -/
def payloadLen (w : CmdWord) : Nat :=
  if rowMatches absorbMask absorbMatch w then ceil8 (fieldLen w).toNat else 0

/-- R90: the row that matches the word, with its operands (R87) and the payload that came with it; `none` for a reserved
word (R91). -/
def decodeWord (w : CmdWord) (payload : List Byte) : Option Instr :=
  if rowMatches configMask configMatch w then some (.config (fieldRate w) (fieldCap w))
  else if rowMatches absorbMask absorbMatch w then some (.absorb (fieldLen w) payload)
  else if rowMatches squeezeMask squeezeMatch w then some (.squeeze (fieldLen w))
  else if rowMatches resetMask resetMatch w then some .reset
  else if rowMatches rdsrMask rdsrMatch w then some (.rdsr (fieldIdx w))
  else none

/-- R88, R90: the word presented and the bytes on `DIN`. Exactly `payloadLen` bytes are consumed; when they are not all
there the engine waits (R243, log 3). -/
def decode (w : CmdWord) (din : List Byte) : Decoded :=
  match decodeWord w (din.take (payloadLen w)) with
  | none => .reserved
  | some i => if payloadLen w ≤ din.length then .command i (din.drop (payloadLen w)) else .waiting

/-- The command word and the payload bytes on `DIN` of a command: the row's fixed bits with each operand in its field,
zero-extended (R83 to R88). The payload of an `ABSORB` is exactly
`ceil8(BITLEN)` bytes: the transport cannot carry the longer ones R81 allows. -/
def encode : Instr → CmdWord × List Byte
  | .config rate cap => (configMatch ||| cap.setWidth 64 <<< 16 ||| rate.setWidth 64, [])
  | .absorb bitlen data => (absorbMatch ||| bitlen.setWidth 64, data.take (ceil8 bitlen.toNat))
  | .squeeze outlen => (squeezeMatch ||| outlen.setWidth 64, [])
  | .reset => (resetMatch, [])
  | .rdsr idx => (rdsrMatch ||| idx.setWidth 64, [])

/-- The pseudo-instruction `ABSORBB <hexbytes>` (R94): the `ABSORB` of all the bits of whole bytes. DESIGN CHOICE, safe:
from 2^57 bytes on, `8*n` is no 60-bit `BITLEN` (R81) and the spec gives no expansion; it is then no command (log 14). -/
def pseudoAbsorbb (data : List Byte) : Option Instr :=
  if 8 * data.length < 2 ^ Config.lenBits then some (.absorb (BitVec.ofNat 60 (8 * data.length)) data) else none

/-- The pseudo-instruction `RDLANE <i>` (R94): the `RDSR` of status register `32 + i`. -/
def pseudoRdlane (i : Fin 25) : Instr := .rdsr (BitVec.ofNat 8 (32 + i.val))

/-- The command without the payload bytes that are never read (R81): what the transport of R88 carries. -/
def Instr.trim : Instr → Instr
  | .absorb bitlen data => .absorb bitlen (data.take (ceil8 bitlen.toNat))
  | .config rate cap => .config rate cap
  | .squeeze outlen => .squeeze outlen
  | .reset => .reset
  | .rdsr idx => .rdsr idx

/-- The command word of an instruction whose first `nbits` bits are `w`, every bit above them 0. -/
def tableWord (nbits w : Nat) : CmdWord := BitVec.ofNat 64 (w % 2 ^ nbits)

/-- The payload bytes of the same instruction: bits 64 and up, a byte each, which `nbits = 64` makes zeros. -/
def tablePayload (nbits w : Nat) : List Byte :=
  (List.range (payloadLen (tableWord nbits w))).map
    fun k => BitVec.ofNat 8 ((w % 2 ^ nbits) >>> (64 + 8 * k))

/-- The instruction this decoder reads from bits numbered as spec/opcode_table.json numbers them. -/
def decodeTableWord (nbits w : Nat) : Option Instr :=
  decodeWord (tableWord nbits w) (tablePayload nbits w)

end Sys2Proof
end

