-- ==== Sys2Proof/Machine/Fetch.lean ====
section
/-! DEFINITION. What the engine takes from the host next. Commands are presented one at a time and fetched from no memory
(20_memory.md R62, R66; 10_state.md R40; log 1). -/

namespace Sys2Proof.Machine

/-- What the host's side offers the engine. -/
inductive Offer where
  /-- Nothing is presented, or a payload is not complete: the engine waits (60_exceptions.md R216, R243; log 3, log 4). -/
  | idle
  /-- Something that is no command of the table happened whole: a reserved word was answered, or hard reset struck. -/
  | done (s : State)
  /-- A command, and the state with its word and payload consumed. -/
  | command (i : Instr) (s : State)
  deriving DecidableEq, Repr

/-- R88, R91, R230: a reserved word is answered `InvalidCommand` and consumes nothing from `DIN`; hard reset clears the
engine; a command is taken with its payload. -/
def fetch (s : State) : Offer :=
  match s.host with
  | [] => .idle
  | .hardReset :: rest => .done (hardReset { s with host := rest })
  | .word w :: rest =>
    match decode w s.din with
    | .reserved => .done (fail .invalidCommand { s with host := rest })
    | .waiting => .idle
    | .command i din => .command i { s with host := rest, din := din }

/-- The state with a word and payload bytes presented before everything else the host has to present. -/
def present (w : CmdWord) (payload : List Byte) (s : State) : State :=
  { s with host := .word w :: s.host, din := payload ++ s.din }

end Sys2Proof.Machine
end

