-- ==== Sys2Proof/Machine/Step.lean ====
section
/-! DEFINITION. One step: one command, atomically (70_reset_and_hazards.md R247; log 6), or what else the host's side
offers. -/

namespace Sys2Proof.Machine

/-- The engine is either idle (waiting for a command) or executing one (60_exceptions.md R216). -/
def step (s : State) : Host.Outcome State Fault Refusal :=
  match fetch s with
  | .idle => .next s
  | .done s' => .next s'
  | .command i s' => exec i s'

/-- The state with the instruction of spec/opcode_table.json's bits `w` presented next, its payload on `DIN` (log 10). -/
def State.withFetchWord (s : State) (nbits w : Nat) : State :=
  present (tableWord nbits w) (tablePayload nbits w) s

end Sys2Proof.Machine
end

