-- ==== Sys2Proof/Safety.lean ====
section
/-! DEFINITION. The terms claims are stated in: which parts of two states agree, the invariant between commands
(10_state.md R41), a run of commands (70_reset_and_hazards.md R248), and the sponge written over bit strings, apart from the
machine (00_scope.md R17, 42_block_ops.md R154, 43_sponge_commands.md R172, R178). -/

namespace Sys2Proof.Machine

/-! ### Parts of the state -/

/-- The eight architectural fields (10_state.md R20) agree. -/
abbrev SameEngine (s t : State) : Prop :=
  s.A = t.A ∧ s.Q = t.Q ∧ s.rate = t.rate ∧ s.capacity = t.capacity ∧ s.bitsInQueue = t.bitsInQueue ∧
    s.bitsForSqueezing = t.bitsForSqueezing ∧ s.squeezing = t.squeezing ∧ s.configured = t.configured

/-- What the host has still to present agrees. -/
abbrev SameInput (s t : State) : Prop := s.host = t.host ∧ s.din = t.din

/-- The parameters of the instance agree. -/
abbrev SameParameters (s t : State) : Prop :=
  s.rate = t.rate ∧ s.capacity = t.capacity ∧ s.configured = t.configured

/-- `t` is one completed command after `s`, answered with `r`. -/
abbrev Answers (s t : State) (r : Response) : Prop := t.cp = s.cp + 1 ∧ t.responses = s.responses ++ [r]

/-! ### The invariant (10_state.md R24, R27, R28, R41) -/

/-- R41 (a) to (f) and R24, with `configured = 1`. -/
structure InvConfigured (s : State) : Prop where
  /-- R41 (a): `rate + capacity = 1600`. -/
  sum : s.rate.toNat + s.capacity.toNat = 1600
  /-- R41 (a): `rate mod 64 = 0`. -/
  lanes : s.rate.toNat % 64 = 0
  /-- R41 (a): `64 <= rate`; `rate <= 1600` follows from `sum`. -/
  positive : 64 ≤ s.rate.toNat
  /-- R41 (b). -/
  queued : s.bitsInQueue.toNat < s.rate.toNat
  /-- R41 (c): no more than a block is left. -/
  left : s.bitsForSqueezing.toNat ≤ s.rate.toNat
  /-- R41 (c): whole bytes are left. -/
  leftBytes : s.bitsForSqueezing.toNat % 8 = 0
  /-- R41 (d). -/
  absorbing : s.squeezing = false → s.bitsForSqueezing = 0
  /-- R41 (e): nothing is queued while squeezing. -/
  squeezing : s.squeezing = true → s.bitsInQueue = 0
  /-- R41 (e): while squeezing the queue is the rate region of the state. -/
  block : s.squeezing = true → ∀ j : Fin 200, j.val < s.rate.toNat / 8 → s.Q[j] = sByte s.A j
  /-- R24 and R41 (e): the queue above the block is zero. -/
  above : ∀ j : Fin 200, s.rate.toNat / 8 ≤ j.val → s.Q[j] = 0
  /-- R41 (f): the unused high bits of a sub-byte fragment are zero. -/
  fragment : s.bitsInQueue.toNat % 8 ≠ 0 → ∀ k : Fin 8, s.bitsInQueue.toNat % 8 ≤ k.val →
    qbit s.Q (8 * (s.bitsInQueue.toNat / 8) + k.val) = false

/-- With `configured = 0`: every field as hard reset leaves it (R27, R28, R43). -/
structure InvUnconfigured (s : State) : Prop where
  lanes : s.A = Vector.replicate 25 0
  queue : s.Q = Vector.replicate 200 0
  rate : s.rate = 0
  capacity : s.capacity = 0
  queued : s.bitsInQueue = 0
  left : s.bitsForSqueezing = 0
  absorbing : s.squeezing = false

/-- The invariant of the engine between commands. -/
structure Inv (s : State) : Prop where
  configured : s.configured = true → InvConfigured s
  unconfigured : s.configured = false → InvUnconfigured s

/-- Two states that differ at most in stale queue bytes (R25, R26). -/
abbrev SameUpToStale (s t : State) : Prop :=
  s.A = t.A ∧ s.rate = t.rate ∧ s.capacity = t.capacity ∧ s.bitsInQueue = t.bitsInQueue ∧
    s.bitsForSqueezing = t.bitsForSqueezing ∧ s.squeezing = t.squeezing ∧ s.configured = t.configured ∧
    s.cp = t.cp ∧ SameInput s t ∧ s.responses = t.responses ∧
    (∀ p, p < s.bitsInQueue.toNat → qbit s.Q p = qbit t.Q p) ∧ (s.squeezing = true → s.Q = t.Q)

/-! ### Runs -/

/-- A finite list of commands presented one after another (R248). -/
def runCommands : List Instr → State → Host.Outcome State Fault Refusal
  | [], s => .next s
  | i :: rest, s =>
    match exec i s with
    | .next t => runCommands rest t
    | .fault f => .fault f
    | .refused r => .refused r

/-- The responses a run added to those of `s`. -/
def newResponses (s t : State) : List Response := t.responses.drop s.responses.length

/-! ### Bytes and bits of a message -/

/-- `k` consecutive blocks at the front of `bytes`, each XORed into the rate region and followed by `PERMUTE` (R172). -/
def absorbBlocks (rate k : Nat) (bytes : List Byte) (A : Lanes) : Lanes :=
  (List.range k).foldl
    (fun B i => permute (xorBlock (rate / 8) ((bytes.drop (i * (rate / 8))).take (rate / 8)) B)) A

/-- Byte `i` of the output stream `Z` that starts at the lanes `A` (R178). -/
def streamByte (rate : Nat) (A : Lanes) (i : Nat) : Byte :=
  (bytesOfLanes (permute^[i / (rate / 8)] A)).toList.getD (i % (rate / 8)) 0

/-- `Z[o .. o+n-1]` (R178). -/
def streamSlice (rate : Nat) (A : Lanes) (o n : Nat) : List Byte :=
  (List.range n).map fun i => streamByte rate A (o + i)

/-- The message of a session: the counted bits of every `ABSORB`, in order (00_scope.md R18, 20_memory.md R54). -/
def messageBits (chunks : List (BitVec 60 × List Byte)) : List Bool :=
  chunks.flatMap fun c => (List.range c.1.toNat).map (payloadBit c.2)

/-- pad10*1 (R17, R154): a 1, the fewest 0 bits, a 1, up to a multiple of `rate`. -/
def pad10star1 (rate : Nat) (M : List Bool) : List Bool :=
  M ++ true :: (List.replicate ((rate - (M.length + 2) % rate) % rate) false ++ [true])

/-- Bits to bytes, least significant first (20_memory.md R53). -/
def packBytes (bits : List Bool) : List Byte :=
  (List.range (bits.length / 8)).map fun j => BitVec.ofFnLE fun k : Fin 8 => bits.getD (8 * j + k.val) false

/-- The sponge over bit strings: pad, absorb every block into the zero state, read `n` bytes of the stream. -/
def sponge (rate : Nat) (M : List Bool) (n : Nat) : List Byte :=
  let P := pad10star1 rate M
  streamSlice rate (absorbBlocks rate (P.length / rate) (packBytes P) (Vector.replicate 25 0)) 0 n

end Sys2Proof.Machine
end

