-- ==== Sys2Proof/Certificates/Slice0/Obligations.lean ====
section
/-! DEFINITION. The statements for the provers. Each docstring says what of spec/ the statement formalises. A statement
with hypotheses has its witness in Sys2Proof/Tests/Slice0.lean. -/

open Sys2Proof Sys2Proof.Machine

/-! ### Decoding (30_encoding.md) -/

/-- Words of 95_test_vectors.md V20, written from the encodings, decode to the commands they stand for; each kind of reserved
word does not decode. -/
def Obligations.SpecWordsDecode : Prop :=
  decodeWord 0x1000000002000440 [] = some (.config 1088 512) ∧
  decodeWord 0x10000000FFFFFFFF [] = some (.config 65535 65535) ∧
  decodeWord 0x2000000000000007 [0x53] = some (.absorb 7 [0x53]) ∧
  decodeWord 0x2FFFFFFFFFFFFFFF [] = some (.absorb (BitVec.ofNat 60 (2 ^ 60 - 1)) []) ∧
  decodeWord 0x3000000000000020 [] = some (.squeeze 32) ∧
  decodeWord 0x4000000000000000 [] = some .reset ∧
  decodeWord 0x5000000000000038 [] = some (.rdsr 56) ∧
  decodeWord 0x1000000102000440 [] = none ∧ decodeWord 0x4800000000000000 [] = none ∧
  decodeWord 0x5000000000000120 [] = none ∧ decodeWord 0x0000000000000000 [] = none ∧
  decodeWord 0x6000000000000000 [] = none ∧ decodeWord 0xFFFFFFFFFFFFFFFF [] = none

/-- R82 to R88: for every well-formed command, decoding its word and payload, whatever else is on `DIN`, gives the command
(less the payload bytes R81 says are never read) and leaves the rest of `DIN`. -/
def Obligations.DecodeEncodeRoundTrip : Prop :=
  ∀ (i : Instr) (rest : List Byte), i.wellFormed = true →
    decode (encode i).1 ((encode i).2 ++ rest) = .command i.trim rest

/-- The other direction: a word and payload that decode to a command are that command's encoding, and the command is well
formed. -/
def Obligations.EncodeDecodeRoundTrip : Prop :=
  ∀ (w : CmdWord) (din rest : List Byte) (i : Instr), decode w din = .command i rest →
    i.wellFormed = true ∧ i.trim = i ∧ (encode i).1 = w ∧ (encode i).2 ++ rest = din

/-- R89 and R90: a word decodes to a row, with the operands of R87, exactly when `CW & mask = match` for that row; it is
reserved exactly when no row matches; no word matches two rows. -/
def Obligations.WordsMatchTheirTableRow : Prop :=
  ∀ (w : CmdWord) (payload : List Byte),
    let config := w &&& 0xFFFFFFFF00000000 = 0x1000000000000000
    let absorb := w &&& 0xF000000000000000 = 0x2000000000000000
    let squeeze := w &&& 0xF000000000000000 = 0x3000000000000000
    let reset := w &&& 0xFFFFFFFFFFFFFFFF = 0x4000000000000000
    let rdsr := w &&& 0xFFFFFFFFFFFFFF00 = 0x5000000000000000
    (config ↔ decodeWord w payload = some (.config (w.extractLsb' 0 16) (w.extractLsb' 16 16))) ∧
    (absorb ↔ decodeWord w payload = some (.absorb (w.extractLsb' 0 60) payload)) ∧
    (squeeze ↔ decodeWord w payload = some (.squeeze (w.extractLsb' 0 60))) ∧
    (reset ↔ decodeWord w payload = some .reset) ∧
    (rdsr ↔ decodeWord w payload = some (.rdsr (w.extractLsb' 0 8))) ∧
    (decodeWord w payload = none ↔ ¬config ∧ ¬absorb ∧ ¬squeeze ∧ ¬reset ∧ ¬rdsr) ∧
    (config → ¬absorb ∧ ¬squeeze ∧ ¬reset ∧ ¬rdsr) ∧ (absorb → ¬squeeze ∧ ¬reset ∧ ¬rdsr) ∧
    (squeeze → ¬reset ∧ ¬rdsr) ∧ (reset → ¬rdsr)

/-- R91: which words are reserved, and what the engine does with one: it is one command that fails with `InvalidCommand`,
takes nothing from `DIN`, returns no payload and changes no state. -/
def Obligations.ReservedWordsFail : Prop :=
  (∀ (w : CmdWord) (payload : List Byte), decodeWord w payload = none ↔
    (w.extractLsb' 60 4 = 0 ∨ 6 ≤ (w.extractLsb' 60 4).toNat) ∨
    (w.extractLsb' 60 4 = 1 ∧ w.extractLsb' 32 28 ≠ 0) ∨
    (w.extractLsb' 60 4 = 4 ∧ w.extractLsb' 0 60 ≠ 0) ∨
    (w.extractLsb' 60 4 = 5 ∧ w.extractLsb' 8 52 ≠ 0)) ∧
  (∀ (s : State) (w : CmdWord) (rest : List HostEvent), s.host = .word w :: rest → decodeWord w [] = none →
    step s = .next { s with host := rest, cp := s.cp + 1, responses := s.responses ++ [⟨.invalidCommand, []⟩] })

/-! ### The step -/

/-- When the word presented and the bytes on `DIN` decode to a command, the step is `exec` of it on the state with the word
and its payload consumed. -/
def Obligations.StepRunsTheDecodedCommand : Prop :=
  ∀ (s : State) (w : CmdWord) (rest : List HostEvent) (i : Instr) (din : List Byte),
    s.host = .word w :: rest → decode w s.din = .command i din →
    step s = exec i { s with host := rest, din := din }

/-- THE MODEL'S CHOICE (log 3, log 4) of how the waiting of R216, R231 and R243 shows: with nothing presented, and while a
payload is not complete on `DIN`, the step leaves the state as it is. -/
def Obligations.IdleEngineWaits : Prop :=
  (∀ s : State, s.host = [] → step s = .next s) ∧
  (∀ (s : State) (bitlen : BitVec 60) (data : List Byte) (rest : List HostEvent),
    s.host = .word (encode (.absorb bitlen data)).1 :: rest → s.din.length < ceil8 bitlen.toNat → step s = .next s)

/-- R230: hard reset leaves every engine field as in the reset state and produces no response. THE MODEL'S CHOICE (log 5,
DESIGN CHOICE, unsafe for `DIN` and `CP`): that it is an event of the host's list, and that it keeps what is left of that
list, `DIN`, `CP` and the earlier responses, on which the clauses about `host`, `din`, `cp` and `responses` rest. -/
def Obligations.HardResetClearsTheEngine : Prop :=
  ∀ (s : State) (rest : List HostEvent), s.host = .hardReset :: rest →
    ∃ t, step s = .next t ∧ SameEngine t State.reset ∧ t.host = rest ∧ t.din = s.din ∧ t.cp = s.cp ∧
      t.responses = s.responses

/-- R43, the three columns of its table: the fields after hard reset, after a successful `CONFIG` and after a successful
`RESET`. -/
def Obligations.InitialisingEventsSetTheFields : Prop :=
  (State.reset.A = Vector.replicate 25 0 ∧ State.reset.Q = Vector.replicate 200 0 ∧ State.reset.rate = 0 ∧
    State.reset.capacity = 0 ∧ State.reset.bitsInQueue = 0 ∧ State.reset.bitsForSqueezing = 0 ∧
    State.reset.squeezing = false ∧ State.reset.configured = false) ∧
  (∀ (s : State) (r c : BitVec 16), configOk r c = true → ∃ t, exec (.config r c) s = .next t ∧
    t.A = Vector.replicate 25 0 ∧ t.Q = Vector.replicate 200 0 ∧ t.rate.toNat = r.toNat ∧ t.capacity.toNat = c.toNat ∧
    t.bitsInQueue = 0 ∧ t.bitsForSqueezing = 0 ∧ t.squeezing = false ∧ t.configured = true) ∧
  (∀ s : State, s.configured = true → ∃ t, exec .reset s = .next t ∧
    t.A = Vector.replicate 25 0 ∧ t.Q = Vector.replicate 200 0 ∧ t.rate = s.rate ∧ t.capacity = s.capacity ∧
    t.bitsInQueue = 0 ∧ t.bitsForSqueezing = 0 ∧ t.squeezing = false ∧ t.configured = true)

/-! ### The Permutation Engine (41_permutation.md) -/

/-- R112: rotation by 0 is the identity, by 1 to 63 the two shifts, and always bit `k` becomes bit `(k + n) mod 64`; 0 and
all ones are fixed. -/
def Obligations.Rotl64MovesEveryBit : Prop :=
  ∀ (a : Lane) (n : Nat), n ≤ 63 →
    (n = 0 → rotl64 a n = a) ∧ (1 ≤ n → rotl64 a n = a <<< n ||| a >>> (64 - n)) ∧
    (∀ k, k < 64 → (rotl64 a n).getLsbD ((k + n) % 64) = a.getLsbD k) ∧
    rotl64 0 n = 0 ∧ rotl64 0xFFFFFFFFFFFFFFFF n = 0xFFFFFFFFFFFFFFFF

/-- R113: `THETA` in coordinates, every `C` taken from the lanes before the step; the all-zero state maps to itself. -/
def Obligations.ThetaMixesColumnParities : Prop :=
  (∀ (A : Lanes) (x y : Nat), x < 5 → y < 5 →
    let C := fun x => laneAt A x 0 ^^^ laneAt A x 1 ^^^ laneAt A x 2 ^^^ laneAt A x 3 ^^^ laneAt A x 4
    laneAt (theta A) x y = laneAt A x y ^^^ (rotl64 (C (x + 1)) 1 ^^^ C (x + 4))) ∧
  theta (Vector.replicate 25 0) = Vector.replicate 25 0

/-- R115, the orbit that generates the rho offsets: from `(1, 0)`, at step `t` the offset of `(x, y)` is `(t+1)(t+2)/2 mod 64`
and `(x, y)` becomes `(y, 2x + 3y)`; lane (0,0) has offset 0. -/
def Obligations.RhoOffsetsFollowTheOrbit : Prop :=
  let at_ := fun t : Nat => (fun p : Nat × Nat => (p.2, (2 * p.1 + 3 * p.2) % 5))^[t] (1, 0)
  (∀ t : Fin 24, (rhoOffset[((at_ t.val).1 + 5 * (at_ t.val).2) % 25]'(by omega)) = (t.val + 1) * (t.val + 2) / 2 % 64) ∧
  (∀ i : Fin 25, i.val ≠ 0 → ∃ t : Fin 24, (at_ t.val).1 + 5 * (at_ t.val).2 = i.val) ∧
  rhoOffset[0] = 0

/-- R116: `RHO` moves bit `k` of lane `i` to bit `(k + RHO_OFFSET[i]) mod 64` of the same lane; lane (0,0) is unchanged. -/
def Obligations.RhoRotatesEachLane : Prop :=
  ∀ A : Lanes, (∀ (i : Fin 25) (k : Nat), k < 64 →
    ((rho A)[i]).getLsbD ((k + rhoOffset[i]) % 64) = (A[i]).getLsbD k) ∧ (rho A)[0] = A[0]

/-- R117: the lane at `(x, y)` moves to `(y, (2x + 3y) mod 5)`; lane (0,0) stays; 24 applications are the identity and no
smaller positive number is. -/
def Obligations.PiMovesEachLane : Prop :=
  (∀ (A : Lanes) (x y : Nat), x < 5 → y < 5 → laneAt (pi A) y ((2 * x + 3 * y) % 5) = laneAt A x y) ∧
  (∀ A : Lanes, (pi A)[0] = A[0] ∧ pi^[24] A = A) ∧
  (∀ k, 0 < k → k < 24 → ∃ A : Lanes, pi^[k] A ≠ A)

/-- R119, bit by bit: `A[x,y] ^ (~A[x+1,y] & A[x+2,y])`, all taken from the row before the step; the all-zero state and the
all-ones state map to themselves. -/
def Obligations.ChiCombinesEachRow : Prop :=
  (∀ (A : Lanes) (x y k : Nat), x < 5 → y < 5 → k < 64 →
    (laneAt (chi A) x y).getLsbD k =
      ((laneAt A x y).getLsbD k ^^ (!(laneAt A (x + 1) y).getLsbD k && (laneAt A (x + 2) y).getLsbD k))) ∧
  chi (Vector.replicate 25 0) = Vector.replicate 25 0 ∧
  chi (Vector.replicate 25 0xFFFFFFFFFFFFFFFF) = Vector.replicate 25 0xFFFFFFFFFFFFFFFF

/-- R121, the shift register that generates the round constants: bit `2^j - 1` of `RC[r]` is `rc(j + 7r)` for `j = 0..6`, and
every other bit is 0. -/
def Obligations.RoundConstantsFollowTheShiftRegister : Prop :=
  let stepR := fun R : Nat => if 256 ≤ 2 * R then (2 * R) ^^^ 0x171 else 2 * R
  let rcBit := fun t : Nat => if t % 255 = 0 then true else (stepR^[t % 255] 1) % 2 == 1
  ∀ (r : Fin 24) (k : Fin 64),
    (roundConstant[r]).getLsbD k.val = (List.range 7).any fun j => k.val == 2 ^ j - 1 && rcBit (j + 7 * r.val)

/-- R122: `IOTA(r)` changes only lane (0,0), by the round constant, and so is its own inverse. -/
def Obligations.IotaChangesOnlyLaneZero : Prop :=
  ∀ (A : Lanes) (r : Fin 24), (iota r A)[0] = A[0] ^^^ roundConstant[r] ∧
    (∀ i : Fin 25, i.val ≠ 0 → (iota r A)[i] = A[i]) ∧ iota r (iota r A) = A

/-- R123 and R124: `PERMUTE` is `theta; rho; pi; chi; iota` for the 24 round indices in order; on the all-zero state it gives
the two lanes of the source's known answer. -/
def Obligations.PermuteIsTwentyFourRounds : Prop :=
  (∀ A : Lanes, permute A =
    (((fun p : Nat × Lanes => (p.1 + 1, iota (Fin.ofNat 24 p.1) (chi (pi (rho (theta p.2))))))^[24]) (0, A)).2) ∧
  (permute (Vector.replicate 25 0))[0] = 0xF1258F7940E1DDE7 ∧
  (permute (Vector.replicate 25 0))[1] = 0x84D5CCF933C0478A

/-! ### Bytes and bits (20_memory.md) -/

/-- R50 and R52: the byte view is little-endian within each lane, each view is computed from the other, and the two
conversions are mutually inverse. -/
def Obligations.LaneAndByteViewsAgree : Prop :=
  (∀ (A : Lanes) (i : Fin 25) (k : Fin 8),
    (bytesOfLanes A)[8 * i.val + k.val] = (A[i]).extractLsb' (8 * k.val) 8) ∧
  (∀ (b : Bytes200) (i : Fin 25) (k : Fin 8),
    ((lanesOfBytes b)[i]).extractLsb' (8 * k.val) 8 = b[8 * i.val + k.val]) ∧
  (∀ b : Bytes200, bytesOfLanes (lanesOfBytes b) = b) ∧ (∀ A : Lanes, lanesOfBytes (bytesOfLanes A) = A)

/-- The numbering of the 1600 state bits: bit `b` is bit `b mod 64` of `A[b div 64]` and bit `b mod 8` of `S[b div 8]`. -/
def Obligations.StateBitNumbering : Prop :=
  ∀ (A : Lanes) (b : Fin 1600),
    (A[b.val / 64]).getLsbD (b.val % 64) = ((bytesOfLanes A)[b.val / 8]).getLsbD (b.val % 8)

/-- R53: `Qbit(p)` is bit `p mod 8` of `Q[p div 8]`; setting position `p` ORs `1 << (p mod 8)` into that byte and clearing
it ANDs the complement; every other byte is kept. -/
def Obligations.QueueBitPositions : Prop :=
  ∀ (Q : Bytes200) (p : Fin 1600),
    qbit Q p.val = (Q[p.val / 8]).getLsbD (p.val % 8) ∧
    (setQbit p.val Q)[p.val / 8] = Q[p.val / 8] ||| 1#8 <<< (p.val % 8) ∧
    (clearQbits p.val (p.val + 1) Q)[p.val / 8] = Q[p.val / 8] &&& ~~~(1#8 <<< (p.val % 8)) ∧
    (∀ j : Fin 200, j.val ≠ p.val / 8 →
      (setQbit p.val Q)[j] = Q[j] ∧ (clearQbits p.val (p.val + 1) Q)[j] = Q[j])

/-! ### Block operations and padding (42_block_ops.md) -/

/-- R140: `S[j] <- S[j] ^ block[j]` for `j < rate/8`, the other bytes kept, then `PERMUTE` on the whole state; `Q`, the
cursors and the flags are untouched. -/
def Obligations.AbsorbBlockXorsThenPermutes : Prop :=
  ∀ (s : State) (block : List Byte), block.length = s.rate.toNat / 8 →
    ∃ B : Lanes, absorbBlock block s = { s with A := permute B } ∧
      ∀ j : Fin 200, (bytesOfLanes B)[j] =
        if j.val < s.rate.toNat / 8 then (bytesOfLanes s.A)[j] ^^^ block.getD j.val 0 else (bytesOfLanes s.A)[j]

/-- The lane form of the block XOR: with a rate that is a multiple of 64, lane `i < rate/64` is XORed with the block's eight
bytes from `8i` on, least significant first, and no other lane is. -/
def Obligations.BlockXorByLanes : Prop :=
  ∀ (A : Lanes) (block : List Byte) (rate : Nat), rate % 64 = 0 → rate ≤ 1600 → block.length = rate / 8 →
    ∀ i : Fin 25,
      (xorBlock (rate / 8) block A)[i] =
        if i.val < rate / 64 then
          A[i] ^^^ ((List.range 8).foldl (fun v k => v ||| (block.getD (8 * i.val + k) 0).setWidth 64 <<< (8 * k)) 0)
        else A[i]

/-- R142: `ABSORB_QUEUE` is `ABSORB_BLOCK` of `Q[0 .. rate/8-1]` and `bits_in_queue <- 0`; `Q` is not modified. -/
def Obligations.AbsorbQueueAbsorbsTheQueuedBlock : Prop :=
  ∀ s : State, absorbQueue s =
    { s with
      A := (absorbBlock ((List.finRange 200).filterMap fun j => if j.val < s.rate.toNat / 8 then some s.Q[j] else none) s).A,
      bitsInQueue := 0 }

/-- R144: `EXTRACT(n)` is `S[0], S[1], ..., S[n-1]`. -/
def Obligations.ExtractReadsTheLeadingBytes : Prop :=
  ∀ (A : Lanes) (n : Nat), n ≤ 200 →
    (extract n A).length = n ∧ ∀ j : Fin 200, j.val < n → (extract n A)[j.val]? = some (bytesOfLanes A)[j]

/-- R145: `Q[0 .. rate/8-1]` becomes the leading state bytes and `bits_for_squeezing` the rate; the rest of `Q` and every
other field are kept. -/
def Obligations.ExtractToQueueRefillsTheBlock : Prop :=
  ∀ s : State, ∃ Q : Bytes200,
    extractToQueue s = { s with Q := Q, bitsForSqueezing := s.rate } ∧
    ∀ j : Fin 200, Q[j] = if j.val < s.rate.toNat / 8 then (bytesOfLanes s.A)[j] else s.Q[j]

/-- R151: with `p + 1 < rate` the block absorbed has bit `p` set, the bits between clear, bit `rate - 1` set and the message
bits below `p` kept; it is absorbed once and the common tail follows. -/
def Obligations.GeneralPaddingSetsTwoBits : Prop :=
  ∀ s : State, s.rate.toNat % 64 = 0 → s.rate.toNat ≤ 1600 → s.bitsInQueue.toNat + 1 < s.rate.toNat →
    ∃ Q : Bytes200,
      padAndSwitch s = switchToSqueeze (absorbQueue { s with Q := Q }) ∧
      ∀ b, b < s.rate.toNat →
        qbit Q b =
          if b < s.bitsInQueue.toNat then qbit s.Q b
          else b == s.bitsInQueue.toNat || b == s.rate.toNat - 1

/-- R152: with exactly one free bit two blocks are absorbed: the message block with its last bit set, then a block of zeros
whose last byte is `0x80`; the common tail follows. -/
def Obligations.SpecialPaddingAbsorbsTwoBlocks : Prop :=
  ∀ s : State, s.rate.toNat % 64 = 0 → 64 ≤ s.rate.toNat → s.rate.toNat ≤ 1600 →
    s.bitsInQueue.toNat + 1 = s.rate.toNat →
    ∃ Q1 Q2 : Bytes200,
      padAndSwitch s = switchToSqueeze (absorbQueue { absorbQueue { s with Q := Q1 } with Q := Q2 }) ∧
      (∀ b, b < s.rate.toNat → qbit Q1 b = (qbit s.Q b || b == s.rate.toNat - 1)) ∧
      (∀ b, b < 1600 → qbit Q2 b = (b == s.rate.toNat - 1))

/-- R153: what `PAD_AND_SWITCH` leaves: `bits_in_queue = 0`, `bits_for_squeezing = rate`, `squeezing = 1`, the queue holding
the rate region of the state and zeros above it; the lanes are those of the final absorption. -/
def Obligations.PadAndSwitchLeavesAFreshBlock : Prop :=
  ∀ s : State,
    let t := padAndSwitch s
    t.bitsInQueue = 0 ∧ t.bitsForSqueezing = s.rate ∧ t.squeezing = true ∧
    (∀ j : Fin 200, t.Q[j] = if j.val < s.rate.toNat / 8 then (bytesOfLanes t.A)[j] else 0) ∧
    t.A = (if s.bitsInQueue.toNat + 1 < s.rate.toNat then padGeneral s else padSpecial s).A

/-! ### CONFIG, RESET, RDSR (43_sponge_commands.md) -/

/-- R160: `CONFIG` completes: with `OK` and a fresh instance when `config_ok` holds, with `InvalidConfig` and no change when
it does not. It may be issued in any state. -/
def Obligations.ConfigResult : Prop :=
  ∀ (s : State) (r c : BitVec 16),
    (configOk r c = true → exec (.config r c) s = .next
      { s with
        A := Vector.replicate 25 0, Q := Vector.replicate 200 0, rate := r.setWidth 11, capacity := c.setWidth 11,
        bitsInQueue := 0, bitsForSqueezing := 0, squeezing := false, configured := true,
        cp := s.cp + 1, responses := s.responses ++ [⟨.ok, []⟩] }) ∧
    (configOk r c = false → exec (.config r c) s = .next
      { s with cp := s.cp + 1, responses := s.responses ++ [⟨.invalidConfig, []⟩] })

/-- R161: `config_ok` is the three conditions, the sum exact; the accepted pairs are `(64k, 1600 - 64k)` for `k = 1 .. 25`. -/
def Obligations.LegalPairsAreTwentyFive : Prop :=
  ∀ r c : BitVec 16,
    (configOk r c = true ↔ r.toNat + c.toNat = 1600 ∧ r.toNat % 64 = 0 ∧ r.toNat ≠ 0) ∧
    (configOk r c = true ↔ ∃ k, 1 ≤ k ∧ k ≤ 25 ∧ r.toNat = 64 * k ∧ c.toNat = 1600 - 64 * k)

/-- R185: `RESET` completes: it zeroes the session and keeps the parameters; twice is as once; after it the engine is as after
`CONFIG rate, capacity`. Where there is no instance it fails with `InvalidState` and no change. -/
def Obligations.ResetResult : Prop :=
  (∀ s : State, s.configured = true → exec .reset s = .next
    { s with
      A := Vector.replicate 25 0, Q := Vector.replicate 200 0, bitsInQueue := 0, bitsForSqueezing := 0,
      squeezing := false, cp := s.cp + 1, responses := s.responses ++ [⟨.ok, []⟩] }) ∧
  (∀ s : State, s.configured = false → exec .reset s = .next
    { s with cp := s.cp + 1, responses := s.responses ++ [⟨.invalidState, []⟩] }) ∧
  (∀ s t u : State, exec .reset s = .next t → exec .reset t = .next u → SameEngine t u) ∧
  (∀ s : State, s.configured = true → Inv s →
    exec .reset s = exec (.config (s.rate.setWidth 16) (s.capacity.setWidth 16)) s)

/-- R34 and R190: every status register by its number, returned as eight bytes, least significant first, with no other change
of the state; `InvalidCommand` for the indices 5 to 31 and 57 to 255. -/
def Obligations.RdsrResult : Prop :=
  ∀ (s : State) (idx : BitVec 8),
    let returns := fun v : BitVec 64 => exec (.rdsr idx) s = .next
      { s with
        cp := s.cp + 1,
        responses := s.responses ++ [⟨.ok, (List.range 8).map fun k => v.extractLsb' (8 * k) 8⟩] }
    (idx.toNat = 0 → ∃ v, returns v ∧ v.getLsbD 0 = s.configured ∧ v.getLsbD 1 = s.squeezing ∧
      ∀ k, 2 ≤ k → v.getLsbD k = false) ∧
    (idx.toNat = 1 → ∃ v, returns v ∧ v.toNat = s.rate.toNat) ∧
    (idx.toNat = 2 → ∃ v, returns v ∧ v.toNat = s.capacity.toNat) ∧
    (idx.toNat = 3 → ∃ v, returns v ∧ v.toNat = s.bitsInQueue.toNat) ∧
    (idx.toNat = 4 → ∃ v, returns v ∧ v.toNat = s.bitsForSqueezing.toNat) ∧
    (∀ i : Fin 25, idx.toNat = 32 + i.val → returns s.A[i]) ∧
    (5 ≤ idx.toNat ∧ idx.toNat ≤ 31 ∨ 57 ≤ idx.toNat → exec (.rdsr idx) s = .next
      { s with cp := s.cp + 1, responses := s.responses ++ [⟨.invalidCommand, []⟩] })

/-! ### ABSORB -/

/-- R166: `ABSORB` fails with `InvalidState` when any of the three conditions holds, whatever `BITLEN` is, and then only the
response is new; presented by its word, it has also consumed its payload from `DIN`. -/
def Obligations.AbsorbPreconditions : Prop :=
  ∀ (s : State) (n : BitVec 60) (data : List Byte), ceil8 n.toNat ≤ data.length →
    (s.configured = false ∨ s.bitsInQueue.toNat % 8 ≠ 0 ∨ s.squeezing = true) →
    exec (.absorb n data) s = .next
      { s with cp := s.cp + 1, responses := s.responses ++ [⟨.invalidState, []⟩] } ∧
    ∀ (rest : List HostEvent) (din : List Byte), s.host = .word (encode (.absorb n data)).1 :: rest →
      s.din = (encode (.absorb n data)).2 ++ din →
      step s = .next
        { s with
          host := rest, din := din, cp := s.cp + 1, responses := s.responses ++ [⟨.invalidState, []⟩] }

/-- The ill-formed `ABSORB` of R81 is refused, and it is the only command `exec` does not complete. -/
def Obligations.OnlyIllFormedAbsorbIsRefused : Prop :=
  (∀ (s : State) (n : BitVec 60) (data : List Byte), data.length < ceil8 n.toNat →
    exec (.absorb n data) s = .refused .payloadTooShort) ∧
  (∀ (s : State) (i : Instr), i.wellFormed = true → ∃ t, exec i s = .next t)

/-- R172, the net effect of `ABSORB`. With `bytes` the queued bytes followed by the payload and `k` the number of complete
blocks in the `b + BITLEN` bits: the `k` blocks at the front are absorbed in order, and the bits left over are the new queue
content. Every other field is kept. -/
def Obligations.AbsorbNetEffect : Prop :=
  ∀ (s : State) (n : BitVec 60) (data : List Byte), Inv s → s.configured = true → s.squeezing = false →
    s.bitsInQueue.toNat % 8 = 0 → ceil8 n.toNat ≤ data.length →
    let bytes := readQueue 0 (s.bitsInQueue.toNat / 8) s.Q ++ data
    let k := (s.bitsInQueue.toNat + n.toNat) / s.rate.toNat
    ∃ t, exec (.absorb n data) s = .next t ∧ Answers s t ⟨.ok, []⟩ ∧
      t.A = absorbBlocks s.rate.toNat k bytes s.A ∧
      t.bitsInQueue.toNat = (s.bitsInQueue.toNat + n.toNat) % s.rate.toNat ∧
      (∀ p, p < t.bitsInQueue.toNat → qbit t.Q p = payloadBit bytes (k * s.rate.toNat + p)) ∧
      (∀ j : Fin 200, s.rate.toNat / 8 ≤ j.val → t.Q[j] = s.Q[j]) ∧
      t.bitsForSqueezing = s.bitsForSqueezing ∧ t.squeezing = s.squeezing ∧ SameParameters s t ∧ SameInput s t

/-- R174: absorbing a message in two chunks, the first of whole bytes, leaves the lanes, `bits_in_queue` and the defined queue
bits as absorbing it at once does. -/
def Obligations.AbsorbIsIncremental : Prop :=
  ∀ (s : State) (n1 n2 n : BitVec 60) (d1 d2 : List Byte), Inv s → s.configured = true → s.squeezing = false →
    s.bitsInQueue.toNat % 8 = 0 → n1.toNat = 8 * d1.length → ceil8 n2.toNat ≤ d2.length →
    n.toNat = n1.toNat + n2.toNat →
    ∃ t u, runCommands [.absorb n1 d1, .absorb n2 d2] s = .next t ∧ exec (.absorb n (d1 ++ d2)) s = .next u ∧
      t.A = u.A ∧ t.bitsInQueue = u.bitsInQueue ∧ (∀ p, p < t.bitsInQueue.toNat → qbit t.Q p = qbit u.Q p) ∧
      newResponses s t = [⟨.ok, []⟩, ⟨.ok, []⟩] ∧ newResponses s u = [⟨.ok, []⟩]

/-- Only the first `BITLEN` bits of a payload are read (20_memory.md R54, R81, R173): two payloads that agree on them are
absorbed alike, in every state. -/
def Obligations.AbsorbReadsOnlyTheCountedBits : Prop :=
  ∀ (s : State) (n : BitVec 60) (d1 d2 : List Byte), ceil8 n.toNat ≤ d1.length → ceil8 n.toNat ≤ d2.length →
    (∀ k, k < n.toNat → payloadBit d1 k = payloadBit d2 k) →
    exec (.absorb n d1) s = exec (.absorb n d2) s

/-! ### SQUEEZE -/

/-- R176: `SQUEEZE` fails only when not configured; in the absorbing phase it pads and switches first, and then does what it
would do from there, also for `OUTLEN = 0`. -/
def Obligations.SqueezePadsLazily : Prop :=
  ∀ (s : State) (n : BitVec 60),
    (s.configured = false → exec (.squeeze n) s = .next
      { s with cp := s.cp + 1, responses := s.responses ++ [⟨.invalidState, []⟩] }) ∧
    (s.configured = true → s.squeezing = false → exec (.squeeze n) s = exec (.squeeze n) (padAndSwitch s)) ∧
    (s.configured = true → ∃ t out, exec (.squeeze n) s = .next t ∧ Answers s t ⟨.ok, out⟩) ∧
    (s.configured = true → s.squeezing = false → n = 0 → ∃ t, exec (.squeeze n) s = .next t ∧
      t.squeezing = true ∧ Answers s t ⟨.ok, []⟩)

/-- R178 for one command. From the state `u` (`s` itself while squeezing, `s` padded and switched before), with `o` bytes of
the current block delivered: `SQUEEZE n` returns the `n` bytes of the output stream from `o` on; the state is then the block
that holds the last byte returned, and `bits_for_squeezing` what is left of it. Every other field is kept. -/
def Obligations.SqueezeReadsTheOutputStream : Prop :=
  ∀ (s : State) (n : BitVec 60), Inv s → s.configured = true →
    let u := if s.squeezing then s else padAndSwitch s
    let B := s.rate.toNat / 8
    let o := (s.rate.toNat - u.bitsForSqueezing.toNat) / 8
    let k := (o + n.toNat - 1) / B
    ∃ t, exec (.squeeze n) s = .next t ∧ Answers s t ⟨.ok, streamSlice s.rate.toNat u.A o n.toNat⟩ ∧
      (n = 0 → SameEngine u t) ∧
      (n ≠ 0 → t.A = permute^[k] u.A ∧ t.bitsForSqueezing.toNat = 8 * ((k + 1) * B - (o + n.toNat))) ∧
      (∀ j : Fin 200, t.Q[j] = if j.val < B then (bytesOfLanes t.A)[j] else 0) ∧
      t.squeezing = true ∧ t.bitsInQueue = 0 ∧ SameParameters s t ∧ SameInput s t

/-- R178 for a session: however the bytes are asked for, the payloads of the `SQUEEZE` commands in order are the leading bytes
of one stream, that of the state the padding left, and where the state stands depends on their total alone. -/
def Obligations.SqueezesReadOneStream : Prop :=
  ∀ (s : State) (ns : List (BitVec 60)), Inv s → s.configured = true → s.squeezing = false → ns ≠ [] →
    let total := (ns.map BitVec.toNat).sum
    let S0 := (padAndSwitch s).A
    let B := s.rate.toNat / 8
    ∃ t, runCommands (ns.map Instr.squeeze) s = .next t ∧
      (newResponses s t).flatMap Response.payload = streamSlice s.rate.toNat S0 0 total ∧
      (∀ r ∈ newResponses s t, r.status = .ok) ∧ (newResponses s t).length = ns.length ∧
      (total = 0 → t.A = S0 ∧ t.bitsForSqueezing = s.rate) ∧
      (total ≠ 0 → t.A = permute^[(total - 1) / B] S0 ∧
        t.bitsForSqueezing.toNat = 8 * (((total - 1) / B + 1) * B - total))

/-! ### The whole engine -/

/-- The engine computes the sponge function: `CONFIG`, any chunks of a message of which only the last may have a bit count
that is no multiple of 8, and one `SQUEEZE` return pad10*1, block absorption and the output stream of the message's bit
string, from any state. -/
def Obligations.EngineComputesTheSponge : Prop :=
  ∀ (s : State) (r c : BitVec 16) (chunks : List (BitVec 60 × List Byte)) (n : BitVec 60),
    configOk r c = true → (∀ x ∈ chunks, ceil8 x.1.toNat ≤ x.2.length) →
    (∀ x ∈ chunks.dropLast, x.1.toNat % 8 = 0) →
    ∃ t, runCommands (.config r c :: (chunks.map fun x => .absorb x.1 x.2) ++ [.squeeze n]) s = .next t ∧
      newResponses s t =
        List.replicate (chunks.length + 1) ⟨.ok, []⟩ ++ [⟨.ok, sponge r.toNat (messageBits chunks) n.toNat⟩]

/-- The invariant holds after hard reset. -/
def Obligations.InvariantHoldsAtReset : Prop := Inv State.reset

/-- The invariant (R41, with R24, R27, R28) is kept by every step: no counter leaves its range, the queue above the rate
region stays zero, and while squeezing the queue is the rate region of the state. -/
def Obligations.StepKeepsTheInvariant : Prop :=
  ∀ s t : State, Inv s → step s = .next t → Inv t

/-- R203 for whole steps: a word that completes with a status other than `OK` changes no architectural state and returns no
payload; only its own payload bytes are gone from `DIN`. -/
def Obligations.FailedCommandsChangeNothing : Prop :=
  ∀ (s t : State) (w : CmdWord) (rest : List HostEvent) (r : Response), s.host = .word w :: rest →
    step s = .next t → t.responses = s.responses ++ [r] → r.status ≠ .ok →
    SameEngine s t ∧ r.payload = [] ∧ t.host = rest ∧
      t.din = s.din.drop (if w.extractLsb' 60 4 = 2 then ceil8 (w.extractLsb' 0 60).toNat else 0)

/-- R200: which status a command completes with, and its number. `InvalidLength` is raised by nothing. -/
def Obligations.StatusTable : Prop :=
  (statusCode .ok = 0 ∧ statusCode .invalidState = 1 ∧ statusCode .invalidLength = 2 ∧
    statusCode .invalidConfig = 3 ∧ statusCode .invalidCommand = 4) ∧
  (∀ (s t : State) (i : Instr), exec i s = .next t → ∃ r, Answers s t r ∧
    (r.status = .invalidState ↔
      (∃ n d, i = .absorb n d ∧ (s.squeezing = true ∨ s.bitsInQueue.toNat % 8 ≠ 0 ∨ s.configured = false)) ∨
      ((∃ n, i = .squeeze n) ∨ i = .reset) ∧ s.configured = false) ∧
    r.status ≠ .invalidLength ∧
    (r.status = .invalidConfig ↔
      ∃ r c, i = .config r c ∧ (r.toNat + c.toNat ≠ 1600 ∨ r.toNat % 64 ≠ 0 ∨ r.toNat = 0)) ∧
    (r.status = .invalidCommand ↔
      ∃ idx, i = .rdsr idx ∧ (5 ≤ idx.toNat ∧ idx.toNat ≤ 31 ∨ 57 ≤ idx.toNat))) ∧
  (∀ (s : State) (w : CmdWord) (rest : List HostEvent), s.host = .word w :: rest → decodeWord w [] = none →
    ∃ t, step s = .next t ∧ Answers s t ⟨.invalidCommand, []⟩)

/-- Every command `exec` completes is counted once by `CP`, answered once, and consumes nothing of the host's side by itself;
what it answers and what it leaves in the engine depend on the engine alone, not on `CP`, on the host's side or on earlier
responses (R40, R58, R193). -/
def Obligations.CommandsDependOnTheEngineOnly : Prop :=
  ∀ (s s' t : State) (i : Instr), SameEngine s s' → exec i s = .next t →
    ∃ r t', exec i s' = .next t' ∧ Answers s t r ∧ Answers s' t' r ∧ SameEngine t t' ∧
      SameInput s t ∧ SameInput s' t'

/-- R192, the session protocol: where each command leads from each of the four states, under the invariant. -/
def Obligations.ProtocolTransitions : Prop :=
  ∀ (s t : State), Inv s →
    (∀ r c, exec (.config r c) s = .next t →
      protocol t = if configOk r c then .absorbing else protocol s) ∧
    (∀ n d, exec (.absorb n d) s = .next t →
      protocol t = if protocol s = .absorbing ∧ n.toNat % 8 ≠ 0 then .fragment else protocol s) ∧
    (∀ n, exec (.squeeze n) s = .next t →
      protocol t = if protocol s = .unconfigured then .unconfigured else .squeezing) ∧
    (exec .reset s = .next t →
      protocol t = if protocol s = .unconfigured then .unconfigured else .absorbing) ∧
    (∀ idx, exec (.rdsr idx) s = .next t → protocol t = protocol s)

/-- R31: only a `SQUEEZE` sets `squeezing`; only `RESET`, a successful `CONFIG` and hard reset clear it. -/
def Obligations.PhaseChangesOnlyByRule : Prop :=
  ∀ s t : State, step s = .next t →
    (s.squeezing = false → t.squeezing = true →
      ∃ w rest n din, s.host = .word w :: rest ∧ decode w s.din = .command (.squeeze n) din ∧ s.configured = true) ∧
    (s.squeezing = true → t.squeezing = false →
      (∃ rest, s.host = .hardReset :: rest) ∨
      ∃ w rest i din, s.host = .word w :: rest ∧ decode w s.din = .command i din ∧
        (i = .reset ∨ ∃ r c, i = .config r c ∧ configOk r c = true))

/-- R27, R28 and R32 over whole steps: the parameters change only by a successful `CONFIG`, to its operands, or by hard
reset; `configured` is set only by the one and cleared only by the other. -/
def Obligations.ParametersChangeOnlyByConfig : Prop :=
  ∀ s t : State, step s = .next t →
    (¬ SameParameters s t →
      (∃ rest, s.host = .hardReset :: rest) ∨
      ∃ w rest r c din, s.host = .word w :: rest ∧ decode w s.din = .command (.config r c) din ∧
        configOk r c = true ∧ t.rate.toNat = r.toNat ∧ t.capacity.toNat = c.toNat) ∧
    (s.configured = false → t.configured = true →
      ∃ w rest r c din, s.host = .word w :: rest ∧ decode w s.din = .command (.config r c) din ∧
        configOk r c = true) ∧
    (s.configured = true → t.configured = false → ∃ rest, s.host = .hardReset :: rest)

/-- R173 and R179, the frames that hold in every state: `ABSORB` never changes `squeezing`, `bits_for_squeezing` or the
parameters; `SQUEEZE` never changes the parameters; neither consumes the host's side by itself. -/
def Obligations.AbsorbAndSqueezeFrames : Prop :=
  (∀ (s t : State) (n : BitVec 60) (d : List Byte), exec (.absorb n d) s = .next t →
    t.squeezing = s.squeezing ∧ t.bitsForSqueezing = s.bitsForSqueezing ∧ SameParameters s t ∧ SameInput s t) ∧
  (∀ (s t : State) (n : BitVec 60), exec (.squeeze n) s = .next t →
    SameParameters s t ∧ SameInput s t ∧ (s.squeezing = true → t.squeezing = true ∧ t.bitsInQueue = s.bitsInQueue))

/-- R26: stale queue bytes cannot be observed. Two states that agree up to them answer every command alike and still agree
up to them. -/
def Obligations.StaleQueueBytesAreUnobservable : Prop :=
  ∀ (s s' t : State) (i : Instr), Inv s → Inv s' → SameUpToStale s s' → exec i s = .next t →
    ∃ t', exec i s' = .next t' ∧ SameUpToStale t t'

/-- R233: no part of a previous message or digest can be read after a clearing event: whatever the two engines held before,
after the same successful `CONFIG` every further run of commands is answered alike; the same for `RESET` of two instances
with the same parameters, and for hard reset. -/
def Obligations.ClearingEventsEraseThePast : Prop :=
  ∀ (s s' t t' v : State) (is : List Instr),
    (∃ r c, configOk r c = true ∧ exec (.config r c) s = .next t ∧ exec (.config r c) s' = .next t') ∨
      (s.configured = true ∧ SameParameters s s' ∧ exec .reset s = .next t ∧ exec .reset s' = .next t') ∨
      (t = hardReset s ∧ t' = hardReset s') →
    runCommands is t = .next v →
    ∃ v', runCommands is t' = .next v' ∧ newResponses t v = newResponses t' v' ∧ SameEngine v v'

/-- Two facts about the capacity region, bytes `rate/8` and above of the state (20_memory.md R69): the block XOR keeps it
(here from any byte `n` on), and the queue a refill leaves does not depend on it. `PERMUTE` writes the region and `RDSR`
returns its lanes: nothing is said of those. -/
def Obligations.XorKeepsAndRefillIgnoresTheCapacityRegion : Prop :=
  (∀ (A : Lanes) (n : Nat) (block : List Byte) (j : Fin 200), n ≤ j.val →
    (bytesOfLanes (xorBlock n block A))[j] = (bytesOfLanes A)[j]) ∧
  (∀ (s : State) (A : Lanes), (∀ j : Fin 200, j.val < s.rate.toNat / 8 → (bytesOfLanes A)[j] = (bytesOfLanes s.A)[j]) →
    (extractToQueue { s with A := A }).Q = (extractToQueue s).Q)
end

