-- ==== Sys2Proof/Laws/State.lean ====
section
/-! SUPPORT. One lemma per field per update, true by rfl, so that no proof unfolds a record update. -/

-- One proof at a time: each proof waiting in parallel holds a thread and its stack.
set_option Elab.async false

namespace Sys2Proof.Machine

variable (s : State)

/-! ### `State.setLanes` -/

@[simp] theorem State.setLanes_A (A : Lanes) : (s.setLanes A).A = A := rfl
@[simp] theorem State.setLanes_Q (A : Lanes) : (s.setLanes A).Q = s.Q := rfl
@[simp] theorem State.setLanes_rate (A : Lanes) : (s.setLanes A).rate = s.rate := rfl
@[simp] theorem State.setLanes_capacity (A : Lanes) : (s.setLanes A).capacity = s.capacity := rfl
@[simp] theorem State.setLanes_bitsInQueue (A : Lanes) : (s.setLanes A).bitsInQueue = s.bitsInQueue := rfl
@[simp] theorem State.setLanes_bitsForSqueezing (A : Lanes) : (s.setLanes A).bitsForSqueezing = s.bitsForSqueezing := rfl
@[simp] theorem State.setLanes_squeezing (A : Lanes) : (s.setLanes A).squeezing = s.squeezing := rfl
@[simp] theorem State.setLanes_configured (A : Lanes) : (s.setLanes A).configured = s.configured := rfl
@[simp] theorem State.setLanes_cp (A : Lanes) : (s.setLanes A).cp = s.cp := rfl
@[simp] theorem State.setLanes_host (A : Lanes) : (s.setLanes A).host = s.host := rfl
@[simp] theorem State.setLanes_din (A : Lanes) : (s.setLanes A).din = s.din := rfl
@[simp] theorem State.setLanes_responses (A : Lanes) : (s.setLanes A).responses = s.responses := rfl

/-! ### `State.setQueue` -/

@[simp] theorem State.setQueue_A (Q : Bytes200) : (s.setQueue Q).A = s.A := rfl
@[simp] theorem State.setQueue_Q (Q : Bytes200) : (s.setQueue Q).Q = Q := rfl
@[simp] theorem State.setQueue_rate (Q : Bytes200) : (s.setQueue Q).rate = s.rate := rfl
@[simp] theorem State.setQueue_capacity (Q : Bytes200) : (s.setQueue Q).capacity = s.capacity := rfl
@[simp] theorem State.setQueue_bitsInQueue (Q : Bytes200) : (s.setQueue Q).bitsInQueue = s.bitsInQueue := rfl
@[simp] theorem State.setQueue_bitsForSqueezing (Q : Bytes200) : (s.setQueue Q).bitsForSqueezing = s.bitsForSqueezing := rfl
@[simp] theorem State.setQueue_squeezing (Q : Bytes200) : (s.setQueue Q).squeezing = s.squeezing := rfl
@[simp] theorem State.setQueue_configured (Q : Bytes200) : (s.setQueue Q).configured = s.configured := rfl
@[simp] theorem State.setQueue_cp (Q : Bytes200) : (s.setQueue Q).cp = s.cp := rfl
@[simp] theorem State.setQueue_host (Q : Bytes200) : (s.setQueue Q).host = s.host := rfl
@[simp] theorem State.setQueue_din (Q : Bytes200) : (s.setQueue Q).din = s.din := rfl
@[simp] theorem State.setQueue_responses (Q : Bytes200) : (s.setQueue Q).responses = s.responses := rfl

/-! ### `State.setBitsInQueue` -/

@[simp] theorem State.setBitsInQueue_A (n : Nat) : (s.setBitsInQueue n).A = s.A := rfl
@[simp] theorem State.setBitsInQueue_Q (n : Nat) : (s.setBitsInQueue n).Q = s.Q := rfl
@[simp] theorem State.setBitsInQueue_rate (n : Nat) : (s.setBitsInQueue n).rate = s.rate := rfl
@[simp] theorem State.setBitsInQueue_capacity (n : Nat) : (s.setBitsInQueue n).capacity = s.capacity := rfl
@[simp] theorem State.setBitsInQueue_bitsInQueue (n : Nat) : (s.setBitsInQueue n).bitsInQueue = BitVec.ofNat 11 n := rfl
@[simp] theorem State.setBitsInQueue_bitsForSqueezing (n : Nat) : (s.setBitsInQueue n).bitsForSqueezing = s.bitsForSqueezing := rfl
@[simp] theorem State.setBitsInQueue_squeezing (n : Nat) : (s.setBitsInQueue n).squeezing = s.squeezing := rfl
@[simp] theorem State.setBitsInQueue_configured (n : Nat) : (s.setBitsInQueue n).configured = s.configured := rfl
@[simp] theorem State.setBitsInQueue_cp (n : Nat) : (s.setBitsInQueue n).cp = s.cp := rfl
@[simp] theorem State.setBitsInQueue_host (n : Nat) : (s.setBitsInQueue n).host = s.host := rfl
@[simp] theorem State.setBitsInQueue_din (n : Nat) : (s.setBitsInQueue n).din = s.din := rfl
@[simp] theorem State.setBitsInQueue_responses (n : Nat) : (s.setBitsInQueue n).responses = s.responses := rfl

/-! ### `State.setBitsForSqueezing` -/

@[simp] theorem State.setBitsForSqueezing_A (n : Nat) : (s.setBitsForSqueezing n).A = s.A := rfl
@[simp] theorem State.setBitsForSqueezing_Q (n : Nat) : (s.setBitsForSqueezing n).Q = s.Q := rfl
@[simp] theorem State.setBitsForSqueezing_rate (n : Nat) : (s.setBitsForSqueezing n).rate = s.rate := rfl
@[simp] theorem State.setBitsForSqueezing_capacity (n : Nat) : (s.setBitsForSqueezing n).capacity = s.capacity := rfl
@[simp] theorem State.setBitsForSqueezing_bitsInQueue (n : Nat) : (s.setBitsForSqueezing n).bitsInQueue = s.bitsInQueue := rfl
@[simp] theorem State.setBitsForSqueezing_bitsForSqueezing (n : Nat) : (s.setBitsForSqueezing n).bitsForSqueezing = BitVec.ofNat 11 n := rfl
@[simp] theorem State.setBitsForSqueezing_squeezing (n : Nat) : (s.setBitsForSqueezing n).squeezing = s.squeezing := rfl
@[simp] theorem State.setBitsForSqueezing_configured (n : Nat) : (s.setBitsForSqueezing n).configured = s.configured := rfl
@[simp] theorem State.setBitsForSqueezing_cp (n : Nat) : (s.setBitsForSqueezing n).cp = s.cp := rfl
@[simp] theorem State.setBitsForSqueezing_host (n : Nat) : (s.setBitsForSqueezing n).host = s.host := rfl
@[simp] theorem State.setBitsForSqueezing_din (n : Nat) : (s.setBitsForSqueezing n).din = s.din := rfl
@[simp] theorem State.setBitsForSqueezing_responses (n : Nat) : (s.setBitsForSqueezing n).responses = s.responses := rfl

/-! ### `State.setSqueezing` -/

@[simp] theorem State.setSqueezing_A (b : Bool) : (s.setSqueezing b).A = s.A := rfl
@[simp] theorem State.setSqueezing_Q (b : Bool) : (s.setSqueezing b).Q = s.Q := rfl
@[simp] theorem State.setSqueezing_rate (b : Bool) : (s.setSqueezing b).rate = s.rate := rfl
@[simp] theorem State.setSqueezing_capacity (b : Bool) : (s.setSqueezing b).capacity = s.capacity := rfl
@[simp] theorem State.setSqueezing_bitsInQueue (b : Bool) : (s.setSqueezing b).bitsInQueue = s.bitsInQueue := rfl
@[simp] theorem State.setSqueezing_bitsForSqueezing (b : Bool) : (s.setSqueezing b).bitsForSqueezing = s.bitsForSqueezing := rfl
@[simp] theorem State.setSqueezing_squeezing (b : Bool) : (s.setSqueezing b).squeezing = b := rfl
@[simp] theorem State.setSqueezing_configured (b : Bool) : (s.setSqueezing b).configured = s.configured := rfl
@[simp] theorem State.setSqueezing_cp (b : Bool) : (s.setSqueezing b).cp = s.cp := rfl
@[simp] theorem State.setSqueezing_host (b : Bool) : (s.setSqueezing b).host = s.host := rfl
@[simp] theorem State.setSqueezing_din (b : Bool) : (s.setSqueezing b).din = s.din := rfl
@[simp] theorem State.setSqueezing_responses (b : Bool) : (s.setSqueezing b).responses = s.responses := rfl

/-! ### `clearSession` -/

@[simp] theorem clearSession_A : (clearSession s).A = Vector.replicate 25 0 := rfl
@[simp] theorem clearSession_Q : (clearSession s).Q = zeroQueue := rfl
@[simp] theorem clearSession_rate : (clearSession s).rate = s.rate := rfl
@[simp] theorem clearSession_capacity : (clearSession s).capacity = s.capacity := rfl
@[simp] theorem clearSession_bitsInQueue : (clearSession s).bitsInQueue = 0 := rfl
@[simp] theorem clearSession_bitsForSqueezing : (clearSession s).bitsForSqueezing = 0 := rfl
@[simp] theorem clearSession_squeezing : (clearSession s).squeezing = false := rfl
@[simp] theorem clearSession_configured : (clearSession s).configured = s.configured := rfl
@[simp] theorem clearSession_cp : (clearSession s).cp = s.cp := rfl
@[simp] theorem clearSession_host : (clearSession s).host = s.host := rfl
@[simp] theorem clearSession_din : (clearSession s).din = s.din := rfl
@[simp] theorem clearSession_responses : (clearSession s).responses = s.responses := rfl

/-! ### `hardReset` -/

@[simp] theorem hardReset_A : (hardReset s).A = Vector.replicate 25 0 := rfl
@[simp] theorem hardReset_Q : (hardReset s).Q = zeroQueue := rfl
@[simp] theorem hardReset_rate : (hardReset s).rate = 0 := rfl
@[simp] theorem hardReset_capacity : (hardReset s).capacity = 0 := rfl
@[simp] theorem hardReset_bitsInQueue : (hardReset s).bitsInQueue = 0 := rfl
@[simp] theorem hardReset_bitsForSqueezing : (hardReset s).bitsForSqueezing = 0 := rfl
@[simp] theorem hardReset_squeezing : (hardReset s).squeezing = false := rfl
@[simp] theorem hardReset_configured : (hardReset s).configured = false := rfl
@[simp] theorem hardReset_cp : (hardReset s).cp = s.cp := rfl
@[simp] theorem hardReset_host : (hardReset s).host = s.host := rfl
@[simp] theorem hardReset_din : (hardReset s).din = s.din := rfl
@[simp] theorem hardReset_responses : (hardReset s).responses = s.responses := rfl

/-! ### `complete` -/

@[simp] theorem complete_A (st : Status) (out : List Byte) : (complete st out s).A = s.A := rfl
@[simp] theorem complete_Q (st : Status) (out : List Byte) : (complete st out s).Q = s.Q := rfl
@[simp] theorem complete_rate (st : Status) (out : List Byte) : (complete st out s).rate = s.rate := rfl
@[simp] theorem complete_capacity (st : Status) (out : List Byte) : (complete st out s).capacity = s.capacity := rfl
@[simp] theorem complete_bitsInQueue (st : Status) (out : List Byte) : (complete st out s).bitsInQueue = s.bitsInQueue := rfl
@[simp] theorem complete_bitsForSqueezing (st : Status) (out : List Byte) : (complete st out s).bitsForSqueezing = s.bitsForSqueezing := rfl
@[simp] theorem complete_squeezing (st : Status) (out : List Byte) : (complete st out s).squeezing = s.squeezing := rfl
@[simp] theorem complete_configured (st : Status) (out : List Byte) : (complete st out s).configured = s.configured := rfl
@[simp] theorem complete_cp (st : Status) (out : List Byte) : (complete st out s).cp = s.cp + 1 := rfl
@[simp] theorem complete_host (st : Status) (out : List Byte) : (complete st out s).host = s.host := rfl
@[simp] theorem complete_din (st : Status) (out : List Byte) : (complete st out s).din = s.din := rfl
@[simp] theorem complete_responses (st : Status) (out : List Byte) : (complete st out s).responses = s.responses ++ [⟨st, out⟩] := rfl

/-! ### `fail` -/

@[simp] theorem fail_A (st : Status) : (fail st s).A = s.A := rfl
@[simp] theorem fail_Q (st : Status) : (fail st s).Q = s.Q := rfl
@[simp] theorem fail_rate (st : Status) : (fail st s).rate = s.rate := rfl
@[simp] theorem fail_capacity (st : Status) : (fail st s).capacity = s.capacity := rfl
@[simp] theorem fail_bitsInQueue (st : Status) : (fail st s).bitsInQueue = s.bitsInQueue := rfl
@[simp] theorem fail_bitsForSqueezing (st : Status) : (fail st s).bitsForSqueezing = s.bitsForSqueezing := rfl
@[simp] theorem fail_squeezing (st : Status) : (fail st s).squeezing = s.squeezing := rfl
@[simp] theorem fail_configured (st : Status) : (fail st s).configured = s.configured := rfl
@[simp] theorem fail_cp (st : Status) : (fail st s).cp = s.cp + 1 := rfl
@[simp] theorem fail_host (st : Status) : (fail st s).host = s.host := rfl
@[simp] theorem fail_din (st : Status) : (fail st s).din = s.din := rfl
@[simp] theorem fail_responses (st : Status) : (fail st s).responses = s.responses ++ [⟨st, []⟩] := rfl

/-- The vectors of the state have the sizes of 00_scope.md R8 and R10. -/
theorem sizes_match_config : Config.nLanes * Config.laneBits = Config.stateBits ∧ Config.stateBytes = s.A.size * 8 ∧
    Config.maxRate / 8 = s.Q.size ∧ Config.nRounds = 24 ∧ Config.lenBits + 4 = 64 :=
  ⟨rfl, rfl, rfl, rfl, rfl⟩

end Sys2Proof.Machine
end

