-- ==== Sys2Proof/Laws/Ops.lean ====
section
/-! SUPPORT. What each operation on bytes and queue bits gives, position by position, so that callers cite these and do not
unfold the vectors. -/

-- One proof at a time: each proof waiting in parallel holds a thread and its stack.
set_option Elab.async false

namespace Sys2Proof.Machine

@[simp] theorem tabulate_get {α : Type} {n : Nat} (f : Fin n → α) (i : Nat) (h : i < n) :
    (tabulate f)[i] = f ⟨i, h⟩ := by
  simp [tabulate]

theorem bytesOfLanes_get (A : Lanes) (j : Nat) (h : j < 200) : (bytesOfLanes A)[j] = sByte A ⟨j, h⟩ := by
  simp [bytesOfLanes]

theorem lanesOfBytes_get (b : Bytes200) (i : Nat) (h : i < 25) : (lanesOfBytes b)[i] = laneOfBytes b ⟨i, h⟩ := by
  simp [lanesOfBytes]

theorem laneAt_of_lt (A : Lanes) {x y : Nat} (hx : x < 5) (hy : y < 5) :
    laneAt A x y = A[x + 5 * y]'(by omega) := by
  simp only [laneAt, Nat.mod_eq_of_lt hx, Nat.mod_eq_of_lt hy]

theorem writeQueue_get (off : Nat) (bs : List Byte) (Q : Bytes200) (j : Nat) (h : j < 200) :
    (writeQueue off bs Q)[j] = if off ≤ j ∧ j < off + bs.length then bs.getD (j - off) 0 else Q[j] := by
  simp [writeQueue]

theorem setQbit_get (p : Nat) (Q : Bytes200) (j : Nat) (h : j < 200) :
    (setQbit p Q)[j] = if j = p / 8 then Q[j] ||| 1#8 <<< (p % 8) else Q[j] := by
  simp [setQbit]

theorem clearQbits_get (lo hi : Nat) (Q : Bytes200) (j : Nat) (h : j < 200) :
    (clearQbits lo hi Q)[j] = Q[j] &&& keepMask lo hi j := by
  simp [clearQbits]

theorem zeroQueue_get (j : Nat) (h : j < 200) : zeroQueue[j] = 0 := by
  simp [zeroQueue]

/-- A queue bit is a bit of its byte. -/
theorem qbit_of_lt (Q : Bytes200) (p : Nat) (h : p < 1600) :
    qbit Q p = (Q[p / 8]'(by omega)).getLsbD (p % 8) := by
  have h' : p / 8 < Q.toList.length := by simp; omega
  rw [qbit, List.getD_eq_getElem _ _ h', Vector.getElem_toList]

/-- Beyond the queue every position reads 0. -/
theorem qbit_of_ge (Q : Bytes200) (p : Nat) (h : 1600 ≤ p) : qbit Q p = false := by
  have h' : Q.toList.length ≤ p / 8 := by simp; omega
  rw [qbit, List.getD_eq_default _ _ h']
  simp

theorem keepMask_getLsbD (lo hi j k : Nat) (h : k < 8) :
    (keepMask lo hi j).getLsbD k = !(decide (lo ≤ 8 * j + k) && decide (8 * j + k < hi)) := by
  simp [keepMask, h]

theorem qbit_setQbit (p q : Nat) (Q : Bytes200) (hq : q < 1600) :
    qbit (setQbit p Q) q = (qbit Q q || decide (q = p)) := by
  rw [qbit_of_lt _ _ hq, qbit_of_lt _ _ hq, setQbit_get]
  by_cases hj : q / 8 = p / 8
  · have hb : (1#8 <<< (p % 8)).getLsbD (q % 8) = decide (q = p) := by
      have h8 : q % 8 < 8 := Nat.mod_lt _ (by decide)
      rw [BitVec.getLsbD_shiftLeft, BitVec.getLsbD_one]
      by_cases hqp : q = p
      · subst hqp; simp; omega
      · have : q % 8 ≠ p % 8 := by omega
        simp [hqp]; omega
    rw [if_pos hj, BitVec.getLsbD_or, hb]
  · have : q ≠ p := fun e => hj (by rw [e])
    simp [if_neg hj, this]

theorem qbit_clearQbits (lo hi q : Nat) (Q : Bytes200) (hq : q < 1600) :
    qbit (clearQbits lo hi Q) q = (qbit Q q && !(decide (lo ≤ q) && decide (q < hi))) := by
  rw [qbit_of_lt _ _ hq, qbit_of_lt _ _ hq, clearQbits_get, BitVec.getLsbD_and,
    keepMask_getLsbD _ _ _ _ (Nat.mod_lt _ (by decide)), Nat.div_add_mod]

theorem readQueue_length (off n : Nat) (Q : Bytes200) : (readQueue off n Q).length = min n (200 - off) := by
  simp [readQueue]

theorem bytesLE_length (v : BitVec 64) : (bytesLE v).length = 8 := rfl

/-- `config_ok` read as its three conditions bounds the rate, so the 11-bit fields hold the operands. -/
theorem configOk_bounds {rate cap : BitVec 16} (h : configOk rate cap = true) :
    rate.toNat ≤ 1600 ∧ cap.toNat ≤ 1600 := by
  simp only [configOk, Config.stateBits, Bool.and_eq_true, beq_iff_eq] at h
  omega

end Sys2Proof.Machine
end

