-- ==== Sys2Proof/Laws/Frames.lean ====
section
/-! SUPPORT. What the block operations and the two loops leave unchanged, field by field (42_block_ops.md,
43_sponge_commands.md R173, R179). -/

-- One proof at a time: each proof waiting in parallel holds a thread and its stack.
set_option Elab.async false

namespace Sys2Proof.Machine

variable (s : State)

/-! ### `permuteState` -/

@[simp] theorem permuteState_rate : (permuteState s).rate = s.rate := rfl
@[simp] theorem permuteState_capacity : (permuteState s).capacity = s.capacity := rfl
@[simp] theorem permuteState_configured : (permuteState s).configured = s.configured := rfl
@[simp] theorem permuteState_cp : (permuteState s).cp = s.cp := rfl
@[simp] theorem permuteState_host : (permuteState s).host = s.host := rfl
@[simp] theorem permuteState_din : (permuteState s).din = s.din := rfl
@[simp] theorem permuteState_responses : (permuteState s).responses = s.responses := rfl
@[simp] theorem permuteState_Q : (permuteState s).Q = s.Q := rfl
@[simp] theorem permuteState_bitsInQueue : (permuteState s).bitsInQueue = s.bitsInQueue := rfl
@[simp] theorem permuteState_bitsForSqueezing : (permuteState s).bitsForSqueezing = s.bitsForSqueezing := rfl
@[simp] theorem permuteState_squeezing : (permuteState s).squeezing = s.squeezing := rfl

/-! ### `absorbBlock` -/

@[simp] theorem absorbBlock_rate (block : List Byte) : (absorbBlock block s).rate = s.rate := rfl
@[simp] theorem absorbBlock_capacity (block : List Byte) : (absorbBlock block s).capacity = s.capacity := rfl
@[simp] theorem absorbBlock_configured (block : List Byte) : (absorbBlock block s).configured = s.configured := rfl
@[simp] theorem absorbBlock_cp (block : List Byte) : (absorbBlock block s).cp = s.cp := rfl
@[simp] theorem absorbBlock_host (block : List Byte) : (absorbBlock block s).host = s.host := rfl
@[simp] theorem absorbBlock_din (block : List Byte) : (absorbBlock block s).din = s.din := rfl
@[simp] theorem absorbBlock_responses (block : List Byte) : (absorbBlock block s).responses = s.responses := rfl
@[simp] theorem absorbBlock_Q (block : List Byte) : (absorbBlock block s).Q = s.Q := rfl
@[simp] theorem absorbBlock_bitsInQueue (block : List Byte) : (absorbBlock block s).bitsInQueue = s.bitsInQueue := rfl
@[simp] theorem absorbBlock_bitsForSqueezing (block : List Byte) : (absorbBlock block s).bitsForSqueezing = s.bitsForSqueezing := rfl
@[simp] theorem absorbBlock_squeezing (block : List Byte) : (absorbBlock block s).squeezing = s.squeezing := rfl

@[simp] theorem absorbBlock_A (block : List Byte) : (absorbBlock block s).A = permute (xorBlock (blockBytes s) block s.A) := rfl

/-! ### `absorbQueue` -/

@[simp] theorem absorbQueue_rate : (absorbQueue s).rate = s.rate := rfl
@[simp] theorem absorbQueue_capacity : (absorbQueue s).capacity = s.capacity := rfl
@[simp] theorem absorbQueue_configured : (absorbQueue s).configured = s.configured := rfl
@[simp] theorem absorbQueue_cp : (absorbQueue s).cp = s.cp := rfl
@[simp] theorem absorbQueue_host : (absorbQueue s).host = s.host := rfl
@[simp] theorem absorbQueue_din : (absorbQueue s).din = s.din := rfl
@[simp] theorem absorbQueue_responses : (absorbQueue s).responses = s.responses := rfl
@[simp] theorem absorbQueue_Q : (absorbQueue s).Q = s.Q := rfl
@[simp] theorem absorbQueue_bitsForSqueezing : (absorbQueue s).bitsForSqueezing = s.bitsForSqueezing := rfl
@[simp] theorem absorbQueue_squeezing : (absorbQueue s).squeezing = s.squeezing := rfl

@[simp] theorem absorbQueue_bitsInQueue : (absorbQueue s).bitsInQueue = 0 := rfl

/-! ### `extractToQueue` -/

@[simp] theorem extractToQueue_rate : (extractToQueue s).rate = s.rate := rfl
@[simp] theorem extractToQueue_capacity : (extractToQueue s).capacity = s.capacity := rfl
@[simp] theorem extractToQueue_configured : (extractToQueue s).configured = s.configured := rfl
@[simp] theorem extractToQueue_cp : (extractToQueue s).cp = s.cp := rfl
@[simp] theorem extractToQueue_host : (extractToQueue s).host = s.host := rfl
@[simp] theorem extractToQueue_din : (extractToQueue s).din = s.din := rfl
@[simp] theorem extractToQueue_responses : (extractToQueue s).responses = s.responses := rfl
@[simp] theorem extractToQueue_A : (extractToQueue s).A = s.A := rfl
@[simp] theorem extractToQueue_bitsInQueue : (extractToQueue s).bitsInQueue = s.bitsInQueue := rfl
@[simp] theorem extractToQueue_squeezing : (extractToQueue s).squeezing = s.squeezing := rfl

@[simp] theorem extractToQueue_bitsForSqueezing : (extractToQueue s).bitsForSqueezing = s.rate := by
  simp [extractToQueue]

/-! ### `switchToSqueeze` -/

@[simp] theorem switchToSqueeze_rate : (switchToSqueeze s).rate = s.rate := rfl
@[simp] theorem switchToSqueeze_capacity : (switchToSqueeze s).capacity = s.capacity := rfl
@[simp] theorem switchToSqueeze_configured : (switchToSqueeze s).configured = s.configured := rfl
@[simp] theorem switchToSqueeze_cp : (switchToSqueeze s).cp = s.cp := rfl
@[simp] theorem switchToSqueeze_host : (switchToSqueeze s).host = s.host := rfl
@[simp] theorem switchToSqueeze_din : (switchToSqueeze s).din = s.din := rfl
@[simp] theorem switchToSqueeze_responses : (switchToSqueeze s).responses = s.responses := rfl
@[simp] theorem switchToSqueeze_A : (switchToSqueeze s).A = s.A := rfl
@[simp] theorem switchToSqueeze_bitsInQueue : (switchToSqueeze s).bitsInQueue = s.bitsInQueue := rfl

@[simp] theorem switchToSqueeze_squeezing : (switchToSqueeze s).squeezing = true := rfl

/-! ### `padGeneral` -/

@[simp] theorem padGeneral_rate : (padGeneral s).rate = s.rate := rfl
@[simp] theorem padGeneral_capacity : (padGeneral s).capacity = s.capacity := rfl
@[simp] theorem padGeneral_configured : (padGeneral s).configured = s.configured := rfl
@[simp] theorem padGeneral_cp : (padGeneral s).cp = s.cp := rfl
@[simp] theorem padGeneral_host : (padGeneral s).host = s.host := rfl
@[simp] theorem padGeneral_din : (padGeneral s).din = s.din := rfl
@[simp] theorem padGeneral_responses : (padGeneral s).responses = s.responses := rfl
@[simp] theorem padGeneral_bitsForSqueezing : (padGeneral s).bitsForSqueezing = s.bitsForSqueezing := rfl
@[simp] theorem padGeneral_squeezing : (padGeneral s).squeezing = s.squeezing := rfl

/-! ### `padSpecial` -/

@[simp] theorem padSpecial_rate : (padSpecial s).rate = s.rate := rfl
@[simp] theorem padSpecial_capacity : (padSpecial s).capacity = s.capacity := rfl
@[simp] theorem padSpecial_configured : (padSpecial s).configured = s.configured := rfl
@[simp] theorem padSpecial_cp : (padSpecial s).cp = s.cp := rfl
@[simp] theorem padSpecial_host : (padSpecial s).host = s.host := rfl
@[simp] theorem padSpecial_din : (padSpecial s).din = s.din := rfl
@[simp] theorem padSpecial_responses : (padSpecial s).responses = s.responses := rfl
@[simp] theorem padSpecial_bitsForSqueezing : (padSpecial s).bitsForSqueezing = s.bitsForSqueezing := rfl
@[simp] theorem padSpecial_squeezing : (padSpecial s).squeezing = s.squeezing := rfl

/-! ### `padAndSwitch` -/

@[simp] theorem padAndSwitch_rate : (padAndSwitch s).rate = s.rate := by unfold padAndSwitch; split <;> rfl
@[simp] theorem padAndSwitch_capacity : (padAndSwitch s).capacity = s.capacity := by unfold padAndSwitch; split <;> rfl
@[simp] theorem padAndSwitch_configured : (padAndSwitch s).configured = s.configured := by unfold padAndSwitch; split <;> rfl
@[simp] theorem padAndSwitch_cp : (padAndSwitch s).cp = s.cp := by unfold padAndSwitch; split <;> rfl
@[simp] theorem padAndSwitch_host : (padAndSwitch s).host = s.host := by unfold padAndSwitch; split <;> rfl
@[simp] theorem padAndSwitch_din : (padAndSwitch s).din = s.din := by unfold padAndSwitch; split <;> rfl
@[simp] theorem padAndSwitch_responses : (padAndSwitch s).responses = s.responses := by unfold padAndSwitch; split <;> rfl

@[simp] theorem padAndSwitch_squeezing : (padAndSwitch s).squeezing = true := rfl

/-! ### `enterSqueezing` -/

@[simp] theorem enterSqueezing_rate : (enterSqueezing s).rate = s.rate := by unfold enterSqueezing; split <;> simp
@[simp] theorem enterSqueezing_capacity : (enterSqueezing s).capacity = s.capacity := by unfold enterSqueezing; split <;> simp
@[simp] theorem enterSqueezing_configured : (enterSqueezing s).configured = s.configured := by unfold enterSqueezing; split <;> simp
@[simp] theorem enterSqueezing_cp : (enterSqueezing s).cp = s.cp := by unfold enterSqueezing; split <;> simp
@[simp] theorem enterSqueezing_host : (enterSqueezing s).host = s.host := by unfold enterSqueezing; split <;> simp
@[simp] theorem enterSqueezing_din : (enterSqueezing s).din = s.din := by unfold enterSqueezing; split <;> simp
@[simp] theorem enterSqueezing_responses : (enterSqueezing s).responses = s.responses := by unfold enterSqueezing; split <;> simp

@[simp] theorem enterSqueezing_squeezing : (enterSqueezing s).squeezing = true := by
  unfold enterSqueezing; split <;> simp_all

/-! ### `refill` -/

@[simp] theorem refill_rate : (refill s).rate = s.rate := by unfold refill; split <;> simp
@[simp] theorem refill_capacity : (refill s).capacity = s.capacity := by unfold refill; split <;> simp
@[simp] theorem refill_configured : (refill s).configured = s.configured := by unfold refill; split <;> simp
@[simp] theorem refill_cp : (refill s).cp = s.cp := by unfold refill; split <;> simp
@[simp] theorem refill_host : (refill s).host = s.host := by unfold refill; split <;> simp
@[simp] theorem refill_din : (refill s).din = s.din := by unfold refill; split <;> simp
@[simp] theorem refill_responses : (refill s).responses = s.responses := by unfold refill; split <;> simp
@[simp] theorem refill_bitsInQueue : (refill s).bitsInQueue = s.bitsInQueue := by unfold refill; split <;> simp
@[simp] theorem refill_squeezing : (refill s).squeezing = s.squeezing := by unfold refill; split <;> simp

/-! ### `deliver` -/

@[simp] theorem deliver_rate (want : Nat) : (deliver want s).rate = s.rate := rfl
@[simp] theorem deliver_capacity (want : Nat) : (deliver want s).capacity = s.capacity := rfl
@[simp] theorem deliver_configured (want : Nat) : (deliver want s).configured = s.configured := rfl
@[simp] theorem deliver_cp (want : Nat) : (deliver want s).cp = s.cp := rfl
@[simp] theorem deliver_host (want : Nat) : (deliver want s).host = s.host := rfl
@[simp] theorem deliver_din (want : Nat) : (deliver want s).din = s.din := rfl
@[simp] theorem deliver_responses (want : Nat) : (deliver want s).responses = s.responses := rfl
@[simp] theorem deliver_A (want : Nat) : (deliver want s).A = s.A := rfl
@[simp] theorem deliver_Q (want : Nat) : (deliver want s).Q = s.Q := rfl
@[simp] theorem deliver_bitsInQueue (want : Nat) : (deliver want s).bitsInQueue = s.bitsInQueue := rfl
@[simp] theorem deliver_squeezing (want : Nat) : (deliver want s).squeezing = s.squeezing := rfl

/-! ### `fillQueue` -/

@[simp] theorem fillQueue_rate (n : Nat) (data : List Byte) : (fillQueue n data s).rate = s.rate := rfl
@[simp] theorem fillQueue_capacity (n : Nat) (data : List Byte) : (fillQueue n data s).capacity = s.capacity := rfl
@[simp] theorem fillQueue_configured (n : Nat) (data : List Byte) : (fillQueue n data s).configured = s.configured := rfl
@[simp] theorem fillQueue_cp (n : Nat) (data : List Byte) : (fillQueue n data s).cp = s.cp := rfl
@[simp] theorem fillQueue_host (n : Nat) (data : List Byte) : (fillQueue n data s).host = s.host := rfl
@[simp] theorem fillQueue_din (n : Nat) (data : List Byte) : (fillQueue n data s).din = s.din := rfl
@[simp] theorem fillQueue_responses (n : Nat) (data : List Byte) : (fillQueue n data s).responses = s.responses := rfl
@[simp] theorem fillQueue_bitsForSqueezing (n : Nat) (data : List Byte) : (fillQueue n data s).bitsForSqueezing = s.bitsForSqueezing := rfl
@[simp] theorem fillQueue_squeezing (n : Nat) (data : List Byte) : (fillQueue n data s).squeezing = s.squeezing := rfl
@[simp] theorem fillQueue_A (n : Nat) (data : List Byte) : (fillQueue n data s).A = s.A := rfl

/-! ### `flushFullQueue` -/

@[simp] theorem flushFullQueue_rate : (flushFullQueue s).rate = s.rate := by unfold flushFullQueue; split <;> simp
@[simp] theorem flushFullQueue_capacity : (flushFullQueue s).capacity = s.capacity := by unfold flushFullQueue; split <;> simp
@[simp] theorem flushFullQueue_configured : (flushFullQueue s).configured = s.configured := by unfold flushFullQueue; split <;> simp
@[simp] theorem flushFullQueue_cp : (flushFullQueue s).cp = s.cp := by unfold flushFullQueue; split <;> simp
@[simp] theorem flushFullQueue_host : (flushFullQueue s).host = s.host := by unfold flushFullQueue; split <;> simp
@[simp] theorem flushFullQueue_din : (flushFullQueue s).din = s.din := by unfold flushFullQueue; split <;> simp
@[simp] theorem flushFullQueue_responses : (flushFullQueue s).responses = s.responses := by unfold flushFullQueue; split <;> simp
@[simp] theorem flushFullQueue_bitsForSqueezing : (flushFullQueue s).bitsForSqueezing = s.bitsForSqueezing := by unfold flushFullQueue; split <;> simp
@[simp] theorem flushFullQueue_squeezing : (flushFullQueue s).squeezing = s.squeezing := by unfold flushFullQueue; split <;> simp
@[simp] theorem flushFullQueue_Q : (flushFullQueue s).Q = s.Q := by unfold flushFullQueue; split <;> simp

/-! ### `storeFragment` -/

@[simp] theorem storeFragment_rate (m : Nat) (b : Byte) : (storeFragment m b s).rate = s.rate := rfl
@[simp] theorem storeFragment_capacity (m : Nat) (b : Byte) : (storeFragment m b s).capacity = s.capacity := rfl
@[simp] theorem storeFragment_configured (m : Nat) (b : Byte) : (storeFragment m b s).configured = s.configured := rfl
@[simp] theorem storeFragment_cp (m : Nat) (b : Byte) : (storeFragment m b s).cp = s.cp := rfl
@[simp] theorem storeFragment_host (m : Nat) (b : Byte) : (storeFragment m b s).host = s.host := rfl
@[simp] theorem storeFragment_din (m : Nat) (b : Byte) : (storeFragment m b s).din = s.din := rfl
@[simp] theorem storeFragment_responses (m : Nat) (b : Byte) : (storeFragment m b s).responses = s.responses := rfl
@[simp] theorem storeFragment_bitsForSqueezing (m : Nat) (b : Byte) : (storeFragment m b s).bitsForSqueezing = s.bitsForSqueezing := rfl
@[simp] theorem storeFragment_squeezing (m : Nat) (b : Byte) : (storeFragment m b s).squeezing = s.squeezing := rfl
@[simp] theorem storeFragment_A (m : Nat) (b : Byte) : (storeFragment m b s).A = s.A := rfl

/-! ### `absorbPartial` -/

@[simp] theorem absorbPartial_rate (rem : Nat) (data : List Byte) : (absorbPartial rem data s).rate = s.rate := by simp only [absorbPartial]; split <;> simp
@[simp] theorem absorbPartial_capacity (rem : Nat) (data : List Byte) : (absorbPartial rem data s).capacity = s.capacity := by simp only [absorbPartial]; split <;> simp
@[simp] theorem absorbPartial_configured (rem : Nat) (data : List Byte) : (absorbPartial rem data s).configured = s.configured := by simp only [absorbPartial]; split <;> simp
@[simp] theorem absorbPartial_cp (rem : Nat) (data : List Byte) : (absorbPartial rem data s).cp = s.cp := by simp only [absorbPartial]; split <;> simp
@[simp] theorem absorbPartial_host (rem : Nat) (data : List Byte) : (absorbPartial rem data s).host = s.host := by simp only [absorbPartial]; split <;> simp
@[simp] theorem absorbPartial_din (rem : Nat) (data : List Byte) : (absorbPartial rem data s).din = s.din := by simp only [absorbPartial]; split <;> simp
@[simp] theorem absorbPartial_responses (rem : Nat) (data : List Byte) : (absorbPartial rem data s).responses = s.responses := by simp only [absorbPartial]; split <;> simp
@[simp] theorem absorbPartial_bitsForSqueezing (rem : Nat) (data : List Byte) : (absorbPartial rem data s).bitsForSqueezing = s.bitsForSqueezing := by simp only [absorbPartial]; split <;> simp
@[simp] theorem absorbPartial_squeezing (rem : Nat) (data : List Byte) : (absorbPartial rem data s).squeezing = s.squeezing := by simp only [absorbPartial]; split <;> simp

/-! ### The loops -/

/-- What the main loop of `ABSORB` keeps, in every state (R173, last point). -/
theorem absorbLoop_keeps (fuel rem : Nat) (data : List Byte) (s : State) :
    let t := absorbLoop fuel rem data s
    t.rate = s.rate ∧ t.capacity = s.capacity ∧ t.configured = s.configured ∧ t.squeezing = s.squeezing ∧
      t.bitsForSqueezing = s.bitsForSqueezing ∧ t.cp = s.cp ∧ t.host = s.host ∧ t.din = s.din ∧
      t.responses = s.responses := by
  induction fuel generalizing rem data s with
  | zero => simp [absorbLoop]
  | succ fuel ih =>
    simp only [absorbLoop]
    split
    · simp
    · split
      · simpa using ih (rem - s.rate.toNat) (data.drop (blockBytes s)) (absorbBlock (data.take (blockBytes s)) s)
      · simpa using ih (rem - bitsThatFit rem s) (data.drop (bitsThatFit rem s / 8)) (absorbPartial rem data s)

/-- What the loop of `SQUEEZE` keeps, in every state (R179, last point). -/
theorem squeezeLoop_keeps (fuel want : Nat) (s : State) :
    let t := (squeezeLoop fuel want s).2
    t.rate = s.rate ∧ t.capacity = s.capacity ∧ t.configured = s.configured ∧ t.squeezing = s.squeezing ∧
      t.bitsInQueue = s.bitsInQueue ∧ t.cp = s.cp ∧ t.host = s.host ∧ t.din = s.din ∧ t.responses = s.responses := by
  induction fuel generalizing want s with
  | zero => simp [squeezeLoop]
  | succ fuel ih =>
    simp only [squeezeLoop]
    split
    · simp
    · simpa using ih (want - (nextBytes want (refill s)).length) (deliver want (refill s))

/-! ### The loops, one iteration at a time -/

theorem absorbLoop_done (fuel : Nat) (data : List Byte) (s : State) : absorbLoop fuel 0 data s = s := by
  cases fuel <;> simp [absorbLoop]

theorem absorbLoop_block (fuel rem : Nat) (data : List Byte) (s : State) (h : rem ≠ 0) (hq : s.bitsInQueue = 0)
    (hr : s.rate.toNat ≤ rem) :
    absorbLoop (fuel + 1) rem data s =
      absorbLoop fuel (rem - s.rate.toNat) (data.drop (blockBytes s)) (absorbBlock (data.take (blockBytes s)) s) := by
  simp [absorbLoop, h, hq, hr]

theorem absorbLoop_partial (fuel rem : Nat) (data : List Byte) (s : State) (h : rem ≠ 0)
    (hn : ¬(s.bitsInQueue = 0 ∧ s.rate.toNat ≤ rem)) :
    absorbLoop (fuel + 1) rem data s =
      absorbLoop fuel (rem - bitsThatFit rem s) (data.drop (bitsThatFit rem s / 8)) (absorbPartial rem data s) := by
  rw [absorbLoop, if_neg h, if_neg hn]

theorem squeezeLoop_done (fuel : Nat) (s : State) : squeezeLoop fuel 0 s = ([], s) := by
  cases fuel <;> simp [squeezeLoop]

theorem squeezeLoop_more (fuel want : Nat) (s : State) (h : want ≠ 0) :
    squeezeLoop (fuel + 1) want s =
      (nextBytes want (refill s) ++
          (squeezeLoop fuel (want - (nextBytes want (refill s)).length) (deliver want (refill s))).1,
        (squeezeLoop fuel (want - (nextBytes want (refill s)).length) (deliver want (refill s))).2) := by
  simp [squeezeLoop, h]

end Sys2Proof.Machine
end

