-- ==== Sys2Proof/Laws/Exec.lean ====
section
/-! SUPPORT. What each meaning and the step can answer, said once: an inversion lemma per meaning, per fetch and for the
step. -/

-- One proof at a time: each proof waiting in parallel holds a thread and its stack.
set_option Elab.async false

namespace Sys2Proof.Machine

/-- `CONFIG` either begins a new instance or fails and changes nothing (R160). -/
theorem execConfig_cases {r c : BitVec 16} {s t : State} (h : execConfig r c s = .next t) :
    (configOk r c = true ∧ t = complete .ok []
        { clearSession s with rate := r.setWidth 11, capacity := c.setWidth 11, configured := true }) ∨
      (configOk r c = false ∧ t = fail .invalidConfig s) := by
  unfold execConfig at h
  split at h <;> cases h
  · exact .inl ⟨‹_›, rfl⟩
  · exact .inr ⟨(Bool.not_eq_true _).mp ‹_›, rfl⟩

/-- `RESET` either clears the session or fails (R185). -/
theorem execReset_cases {s t : State} (h : execReset s = .next t) :
    (s.configured = true ∧ t = complete .ok [] (clearSession s)) ∨
      (s.configured = false ∧ t = fail .invalidState s) := by
  unfold execReset at h
  split at h <;> cases h
  · exact .inl ⟨‹_›, rfl⟩
  · exact .inr ⟨(Bool.not_eq_true _).mp ‹_›, rfl⟩

/-- `RDSR` either returns a register or fails (R190). -/
theorem execRdsr_cases {idx : BitVec 8} {s t : State} (h : execRdsr idx s = .next t) :
    (∃ v, statusRegister idx s = some v ∧ t = complete .ok (bytesLE v) s) ∨
      (statusRegister idx s = none ∧ t = fail .invalidCommand s) := by
  unfold execRdsr at h
  split at h <;> cases h
  · exact .inl ⟨_, ‹_›, rfl⟩
  · exact .inr ⟨‹_›, rfl⟩

/-- A completed `ABSORB` is well formed, and either runs the loop or fails (R166). -/
theorem execAbsorb_cases {n : BitVec 60} {d : List Byte} {s t : State} (h : execAbsorb n d s = .next t) :
    ceil8 n.toNat ≤ d.length ∧
      ((absorbAllowed s = true ∧ t = complete .ok [] (absorbLoop n.toNat n.toNat d s)) ∨
        (absorbAllowed s = false ∧ t = fail .invalidState s)) := by
  unfold execAbsorb at h
  split at h
  · cases h
  · refine ⟨by omega, ?_⟩
    split at h <;> cases h
    · exact .inl ⟨‹_›, rfl⟩
    · exact .inr ⟨(Bool.not_eq_true _).mp ‹_›, rfl⟩

/-- `SQUEEZE` either runs the loop from the squeezing phase or fails (R175). -/
theorem execSqueeze_cases {n : BitVec 60} {s t : State} (h : execSqueeze n s = .next t) :
    (s.configured = true ∧ t = complete .ok (squeezeLoop n.toNat n.toNat (enterSqueezing s)).1
        (squeezeLoop n.toNat n.toNat (enterSqueezing s)).2) ∨
      (s.configured = false ∧ t = fail .invalidState s) := by
  unfold execSqueeze at h
  split at h <;> cases h
  · exact .inl ⟨‹_›, rfl⟩
  · exact .inr ⟨(Bool.not_eq_true _).mp ‹_›, rfl⟩

/-- Nothing a command answers is a fault. -/
theorem exec_no_fault (i : Instr) (s : State) (f : Fault) : exec i s ≠ .fault f := nomatch f

/-- What a step can be: nothing happens, hard reset strikes, a reserved word is answered, or a command runs. -/
theorem step_cases {s t : State} (h : step s = .next t) :
    t = s ∨
      (∃ rest, s.host = .hardReset :: rest ∧ t = hardReset { s with host := rest }) ∨
      (∃ w rest, s.host = .word w :: rest ∧ decode w s.din = .reserved ∧
        t = fail .invalidCommand { s with host := rest }) ∨
      (∃ w rest i din, s.host = .word w :: rest ∧ decode w s.din = .command i din ∧
        exec i { s with host := rest, din := din } = .next t) := by
  unfold step fetch at h
  split at h
  · cases h; exact .inl rfl
  · rename_i s' hf
    cases h
    split at hf
    · cases hf
    · cases hf; exact .inr (.inl ⟨_, ‹_›, rfl⟩)
    · split at hf
      · cases hf; exact .inr (.inr (.inl ⟨_, _, ‹_›, ‹_›, rfl⟩))
      · cases hf
      · cases hf
  · rename_i i s' hf
    split at hf
    · cases hf
    · cases hf
    · split at hf
      · cases hf
      · cases hf
      · cases hf; exact .inr (.inr (.inr ⟨_, _, _, _, ‹_›, ‹_›, h⟩))

/-- A reserved word takes no payload, so whether it is reserved does not depend on `DIN`. -/
theorem decode_reserved_iff (w : CmdWord) (din : List Byte) : decode w din = .reserved ↔ decodeWord w [] = none := by
  simp only [decode, decodeWord]
  repeat' split
  all_goals simp_all

end Sys2Proof.Machine
end

