-- ==== Sys2Proof/Laws/PerInstr.lean ====
section
/-! SUPPORT. A law about every command as syntax, one lemma per constructor: its encoded word lies in its own row of the
opcode map (30_encoding.md R89). -/

-- One proof at a time: each proof waiting in parallel holds a thread and its stack.
set_option Elab.async false

namespace Sys2Proof.Laws.EncodesItsRow

/-- The row of R89 a command belongs to: its mask and match. -/
def row : Instr → CmdWord × CmdWord
  | .config _ _ => (configMask, configMatch)
  | .absorb _ _ => (absorbMask, absorbMatch)
  | .squeeze _ => (squeezeMask, squeezeMatch)
  | .reset => (resetMask, resetMatch)
  | .rdsr _ => (rdsrMask, rdsrMatch)

/-- The encoded word matches the command's row. -/
def Statement (i : Instr) : Prop := rowMatches (row i).1 (row i).2 (encode i).1 = true

theorem config (rate cap : BitVec 16) : Statement (.config rate cap) := by
  simp only [Statement, row, encode, rowMatches, beq_iff_eq, configMask, configMatch]
  ext i hi
  interval_cases i <;> simp

theorem absorb (bitlen : BitVec 60) (data : List Byte) : Statement (.absorb bitlen data) := by
  simp only [Statement, row, encode, rowMatches, beq_iff_eq, absorbMask, absorbMatch]
  ext i hi
  interval_cases i <;> simp

theorem squeeze (outlen : BitVec 60) : Statement (.squeeze outlen) := by
  simp only [Statement, row, encode, rowMatches, beq_iff_eq, squeezeMask, squeezeMatch]
  ext i hi
  interval_cases i <;> simp

theorem reset : Statement .reset := by
  simp [Statement, row, encode, rowMatches, resetMask, resetMatch]

theorem rdsr (idx : BitVec 8) : Statement (.rdsr idx) := by
  simp only [Statement, row, encode, rowMatches, beq_iff_eq, rdsrMask, rdsrMatch]
  ext i hi
  interval_cases i <;> simp

end Sys2Proof.Laws.EncodesItsRow
end

