-- ==== Sys2Proof/Tests/Slice0.lean ====
section
/-! SUPPORT. Tests, each expected value from 95_test_vectors.md or worked out from the rules named, and for every statement
with hypotheses a witness that meets them together. -/

-- One proof at a time: each proof waiting in parallel holds a thread and its stack.
set_option Elab.async false

namespace Sys2Proof.Tests

open Sys2Proof Sys2Proof.Machine

/-! ### Small states -/

/-- Absorbing at rate 64, no byte queued, all zero. -/
def absorbing : State :=
  { State.reset with rate := 64, capacity := 1536, configured := true }

/-- Absorbing at rate 64 with `n` bits queued, a message of `a5` bytes. -/
def queued (n : Nat) (Q : Bytes200) : State :=
  { absorbing with bitsInQueue := BitVec.ofNat 11 n, Q := Q }

/-- One byte `a5` queued. -/
def oneByte : State := queued 8 (writeQueue 0 [0xa5] zeroQueue)

/-- The 63 bits of V13 row j queued: one free bit. -/
def oneFreeBit : State := queued 63 (writeQueue 0 [0xa5, 0xa5, 0xa5, 0xa5, 0xa5, 0xa5, 0xa5, 0x25] zeroQueue)

/-- The lanes with `A[0] = 0x0807060504030201`, all else 0: `S[0..7] = 01 02 .. 08`. -/
def countingLanes : Lanes := (Vector.replicate 25 0).set 0 0x0807060504030201

/-- Squeezing at rate 64 with `n` bits of the block `01 02 .. 08` left. -/
def squeezing (n : Nat) : State :=
  { absorbing with
    A := countingLanes, Q := writeQueue 0 [1, 2, 3, 4, 5, 6, 7, 8] zeroQueue,
    bitsForSqueezing := BitVec.ofNat 11 n, squeezing := true }

/-- The state with one word presented and these bytes on `DIN`. -/
def presenting (w : CmdWord) (din : List Byte) (s : State) : State := { s with host := [.word w], din := din }

/-- A test of the state an outcome leads to. -/
def leadsTo (o : Host.Outcome State Fault Refusal) (p : State → Bool) : Bool :=
  match o with
  | .next t => p t
  | .fault _ => false
  | .refused _ => false

theorem exists_of_leadsTo {o : Host.Outcome State Fault Refusal} {p : State → Bool} (h : leadsTo o p = true) :
    ∃ t, o = .next t ∧ p t = true := by
  cases o with
  | next t => exact ⟨t, rfl, h⟩
  | fault f => cases f
  | refused r => cases h

/-! ### Well-formedness and decoding -/

/-- The one check of R81 refuses a payload one byte short. -/
theorem test_wellFormed_refuses_short_payload : (Instr.absorb 9 [0xa5]).wellFormed = false := by decide
theorem test_wellFormed_accepts_longer_payload : (Instr.absorb 12 [0xa5, 0x0f, 0x77]).wellFormed = true := by decide

/-- `0001`, 28 zero bits, CAP = 448 = `0000000111000000`, RATE = 1152 = `0000010010000000` (R83). -/
theorem test_decode_config :
    decodeWord 0b0001000000000000000000000000000000000001110000000000010010000000 [] = some (.config 1152 448) := by decide

/-- `0010` and BITLEN = 12 (R84), with its two payload bytes and one that stays on `DIN` (R88). -/
theorem test_decode_absorb :
    decode 0b0010000000000000000000000000000000000000000000000000000000001100 [0xa5, 0x0f, 0x77]
      = .command (.absorb 12 [0xa5, 0x0f]) [0x77] := by decide

/-- `0011` and OUTLEN = 32 (R84). -/
theorem test_decode_squeeze :
    decodeWord 0b0011000000000000000000000000000000000000000000000000000000100000 [] = some (.squeeze 32) := by decide

/-- `0100` and zeros (R85). -/
theorem test_decode_reset :
    decodeWord 0b0100000000000000000000000000000000000000000000000000000000000000 [] = some .reset := by decide

/-- `0101`, zeros, IDX = 57 (R86): it decodes and fails only at execution (R92). -/
theorem test_decode_rdsr :
    decodeWord 0b0101000000000000000000000000000000000000000000000000000000111001 [] = some (.rdsr 57) := by decide

/-- V20: a `RESET` word with bit 59 set, an `RDSR` word with bit 8 set, a `CONFIG` word with bit 32 set are reserved (R91). -/
theorem test_decode_reserved_bits :
    decodeWord 0x4800000000000000 [] = none ∧ decodeWord 0x5000000000000120 [] = none ∧
      decodeWord 0x1000000102000440 [] = none := by decide

theorem test_encode_config : encode (.config 1088 512) = (0x1000000002000440, []) := by decide
theorem test_encode_absorb_drops_unread_bytes : encode (.absorb 7 [0x53, 0x99]) = (0x2000000000000007, [0x53]) := by decide
/-- R94: `ABSORBB "abc"` is 24 bits, `RDLANE 24` is index 56. -/
theorem test_pseudo_instructions :
    (pseudoAbsorbb [0x61, 0x62, 0x63]).map encode = some (0x2000000000000018, [0x61, 0x62, 0x63]) ∧
      encode (pseudoRdlane 24) = (0x5000000000000038, []) := by decide
theorem test_decodeTableWord_rdsr : decodeTableWord 64 0x5000000000000020 = some (.rdsr 32) := by decide

/-! ### The Permutation Engine (V1 to V7) -/

theorem test_rotl64 :
    rotl64 0x0123456789ABCDEF 0 = 0x0123456789ABCDEF ∧ rotl64 0x0123456789ABCDEF 63 = 0x8091A2B3C4D5E6F7 ∧
      rotl64 0xF000000000000000 62 = 0x3C00000000000000 := by decide

/-- V2 c: `A[4] = FF`, `A[9] = 0F`. -/
theorem test_theta :
    let B := theta (((Vector.replicate 25 0).set 4 0xFF).set 9 0x0F)
    B[0] = 0xF0 ∧ B[3] = 0x1E0 ∧ B[4] = 0xFF ∧ B[9] = 0x0F ∧ B[20] = 0xF0 ∧ B[24] = 0 := by decide +kernel

/-- V3 b: every lane `8000000000000001`. -/
theorem test_rho :
    let B := rho (Vector.replicate 25 0x8000000000000001)
    B[0] = 0x8000000000000001 ∧ B[2] = 0x6000000000000000 ∧ B[8] = 0x00C0000000000000 ∧ B[24] = 0x6000 := by
  decide +kernel

/-- V4 a: `A[i] = i`. -/
theorem test_pi :
    (pi (tabulate fun i => BitVec.ofNat 64 i.val)).toList.map BitVec.toNat
      = [0, 6, 12, 18, 24, 3, 9, 10, 16, 22, 1, 7, 13, 19, 20, 4, 5, 11, 17, 23, 2, 8, 14, 15, 21] := by decide +kernel

/-- V5 f in row 4. -/
theorem test_chi :
    let T : Lanes := ((((((Vector.replicate 25 0).set 20 0xAAAAAAAAAAAAAAAA).set 21 0x5555555555555555).set 22
      0xFFFFFFFFFFFFFFFF).set 23 0).set 24 0x0123456789ABCDEF)
    (chi T)[20] = 0 ∧ (chi T)[21] = 0x5555555555555555 ∧ (chi T)[22] = 0xFEDCBA9876543210 ∧
      (chi T)[23] = 0xAA88AA8822002200 ∧ (chi T)[24] = 0x54761032DCFE98BA ∧ (chi T)[19] = 0 := by decide +kernel

/-- V6 b. -/
theorem test_iota :
    (iota 23 ((Vector.replicate 25 0).set 0 0xFFFFFFFFFFFFFFFF))[0] = 0x7FFFFFFF7FFF7FF7 := by decide +kernel

/-- V7: rounds 0 and 1 on the zero state. -/
theorem test_round :
    let B := keccakRound 1 (keccakRound 0 (Vector.replicate 25 0))
    B[0] = 0x8083 ∧ B[6] = 0x0000200000200000 ∧ B[15] = 0x10000400 ∧ B[24] = 4 := by decide +kernel

/-! ### Bytes, queue bits, padding (V10, V12, V13) -/

/-- V10 a: `A[3] = 0x0123456789ABCDEF` is `S[24..31] = ef cd ab 89 67 45 23 01`. -/
theorem test_bytesOfLanes :
    let b := bytesOfLanes ((Vector.replicate 25 0).set 3 0x0123456789ABCDEF)
    b[24] = 0xef ∧ b[25] = 0xcd ∧ b[31] = 0x01 ∧ b[32] = 0 ∧ (lanesOfBytes b)[3] = 0x0123456789ABCDEF := by
  decide +kernel

/-- V10 d: `Qbit(344)` is bit 0 of `Q[43]`, `Qbit(1087)` bit 7 of `Q[135]`. -/
theorem test_qbit :
    (setQbit 344 zeroQueue)[43] = 0x01 ∧ (setQbit 1087 zeroQueue)[135] = 0x80 ∧
      qbit (writeQueue 43 [0x01] zeroQueue) 344 = true := by decide +kernel

/-- V11 c: the XOR of the padding block of the empty message at rate 64, before `PERMUTE`. -/
theorem test_xorBlock :
    (xorBlock 8 [0x01, 0, 0, 0, 0, 0, 0, 0x80] (Vector.replicate 25 0))[0] = 0x8000000000000001 := by decide +kernel

/-- V13 rows f, c and e at their last bytes: `25` with bits 6 and 7 set, `05` with bit 3 set, both pad bits in one byte. -/
theorem test_padQueue :
    (padQueue 1086 1088 (writeQueue 135 [0x25] zeroQueue))[135] = 0xe5 ∧
      (padQueue 3 1088 (writeQueue 0 [0x05, 0xee] zeroQueue))[0] = 0x0d ∧
      (padQueue 3 1088 (writeQueue 0 [0x05, 0xee] zeroQueue))[1] = 0 ∧
      (padQueue 1080 1088 zeroQueue)[135] = 0x81 := by decide +kernel

/-! ### The commands -/

/-- V16 a: the no-wrap pair 1664, 65472 and rate 0 fail, 1600, 0 does not (R161). -/
theorem test_configOk :
    configOk 1664 65472 = false ∧ configOk 0 1600 = false ∧ configOk 1600 0 = true ∧ configOk 1096 504 = false := by decide

/-- V16 c: a successful `CONFIG` discards the session. -/
theorem test_config_new_instance :
    leadsTo (exec (.config 1088 512) oneByte) (fun t =>
      t.rate == 1088 && t.capacity == 512 && t.bitsInQueue == 0 && t.Q == zeroQueue && t.configured) = true := by
  decide +kernel

/-- V19 k: a failed `CONFIG` keeps it. -/
theorem test_config_fails :
    leadsTo (exec (.config 1088 511) oneByte) (fun t =>
      t.responses == [⟨.invalidConfig, []⟩] && t.bitsInQueue == 8 && t.rate == 64) = true := by decide +kernel

/-- V14 row j at rate 64: 77 bits are one block, a whole byte and 5 bits of `89`, kept as `09`; `bits_in_queue = 13`. -/
theorem test_absorb_regimes :
    leadsTo (exec (.absorb 77 [0, 1, 2, 3, 4, 5, 6, 7, 0x88, 0x89]) absorbing) (fun t =>
      t.bitsInQueue == 13 && t.Q[0] == 0x88 && t.Q[1] == 0x09 && t.Q[2] == 0) = true := by decide +kernel

/-- V19 g: `ABSORB 0` fails on a sub-byte fragment. -/
theorem test_absorb_after_fragment :
    leadsTo (exec (.absorb 0 []) oneFreeBit) (fun t =>
      t.responses == [⟨.invalidState, []⟩] && t.bitsInQueue == 63 && t.cp == 1) = true := by decide +kernel

/-- R175: three of the six bytes left, from offset 2, and 24 bits still left. -/
theorem test_squeeze_within_block :
    leadsTo (exec (.squeeze 3) (squeezing 48)) (fun t =>
      t.responses == [⟨.ok, [3, 4, 5]⟩] && t.bitsForSqueezing == 24) = true := by decide +kernel

/-- S1 through the lazy refill of R177: with no byte left and all lanes zero, the next bytes are `e7 dd` of `PERMUTE(0)`. -/
theorem test_squeeze_refills :
    leadsTo (exec (.squeeze 2) { squeezing 0 with A := Vector.replicate 25 0 }) (fun t =>
      t.responses == [⟨.ok, [0xe7, 0xdd]⟩] && t.bitsForSqueezing == 48) = true := by decide +kernel

/-- V17 a, and V17 c: `RESET` lifts the sub-byte lock and keeps the rate. -/
theorem test_reset :
    leadsTo (exec .reset State.reset) (fun t => t.responses == [⟨.invalidState, []⟩] && !t.configured) = true ∧
      leadsTo (exec .reset oneFreeBit) (fun t => absorbAllowed t && t.rate == 64 && t.bitsInQueue == 0) = true := by
  decide +kernel

/-- V18: `CTRL` with both flags, lane 0 least significant byte first. -/
theorem test_rdsr :
    leadsTo (exec (.rdsr 0) (squeezing 8)) (fun t => t.responses == [⟨.ok, [3, 0, 0, 0, 0, 0, 0, 0]⟩]) = true ∧
      leadsTo (exec (.rdsr 32) (squeezing 8)) (fun t => t.responses == [⟨.ok, [1, 2, 3, 4, 5, 6, 7, 8]⟩]) = true := by
  decide +kernel

/-- V18: indices 31 and 57 are reserved. -/
theorem test_rdsr_reserved :
    leadsTo (exec (.rdsr 31) absorbing) (fun t => t.responses == [⟨.invalidCommand, []⟩]) = true ∧
      leadsTo (exec (.rdsr 57) absorbing) (fun t => t.responses == [⟨.invalidCommand, []⟩]) = true := by decide +kernel

/-! ### The step -/

/-- V19 j: a `RESET` word with a reserved bit set takes nothing from `DIN` and does not reset. -/
theorem test_step_reserved :
    leadsTo (step (presenting 0x4000000000000001 [7] oneByte)) (fun t =>
      t.responses == [⟨.invalidCommand, []⟩] && t.bitsInQueue == 8 && t.din == [7] && t.host == []) = true := by
  decide +kernel

/-- V19 a: a failed `ABSORB` has consumed its payload byte. -/
theorem test_step_failed_absorb_consumes_payload :
    leadsTo (step (presenting 0x2000000000000008 [0, 9] State.reset)) (fun t =>
      t.responses == [⟨.invalidState, []⟩] && t.din == [9] && t.cp == 1) = true := by decide +kernel

/-- The first instruction after reset is the one presented. -/
theorem test_withFetchWord :
    leadsTo (step (State.reset.withFetchWord 64 0x1000000002000440)) (fun t => t.rate == 1088 && t.host == []) = true := by
  decide +kernel

/-! ### Witnesses: states that meet the invariant -/

theorem inv_reset_like (s : State) (h : s.configured = true) (h' : InvConfigured s) : Inv s :=
  ⟨fun _ => h', fun hf => by simp [h] at hf⟩

theorem inv_absorbing : Inv absorbing := inv_reset_like _ rfl (by constructor <;> decide +kernel)
theorem inv_oneByte : Inv oneByte := inv_reset_like _ rfl (by constructor <;> decide +kernel)
theorem inv_oneFreeBit : Inv oneFreeBit := inv_reset_like _ rfl (by constructor <;> decide +kernel)
theorem inv_squeezing_full : Inv (squeezing 64) := inv_reset_like _ rfl (by constructor <;> decide +kernel)
theorem inv_squeezing_empty : Inv (squeezing 0) := inv_reset_like _ rfl (by constructor <;> decide +kernel)

/-! ### Witnesses: the hypotheses of each statement -/

theorem witness_DecodeEncodeRoundTrip :
    (Instr.absorb 12 [0xa5, 0x0f, 0x77]).wellFormed = true ∧ (Instr.config 65535 65535).wellFormed = true ∧
      (Instr.squeeze (BitVec.ofNat 60 (2 ^ 60 - 1))).wellFormed = true ∧ Instr.reset.wellFormed = true ∧
      (Instr.rdsr 255).wellFormed = true := by decide

theorem witness_EncodeDecodeRoundTrip :
    decode 0x200000000000000C [0xa5, 0x0f, 0x77] = .command (.absorb 12 [0xa5, 0x0f]) [0x77] := by decide

theorem witness_ReservedWordsFail :
    ∃ (s : State) (w : CmdWord) (rest : List HostEvent), s.host = .word w :: rest ∧ decodeWord w [] = none :=
  ⟨presenting 0xFFFFFFFFFFFFFFFF [] absorbing, _, _, rfl, by decide⟩

theorem witness_StepRunsTheDecodedCommand :
    ∃ (s : State) (w : CmdWord) (rest : List HostEvent) (i : Instr) (din : List Byte),
      s.host = .word w :: rest ∧ decode w s.din = .command i din :=
  ⟨presenting 0x2000000000000008 [0xa5, 1] absorbing, 0x2000000000000008, [], .absorb 8 [0xa5], [1], rfl, by decide +kernel⟩

theorem witness_IdleEngineWaits :
    (∃ s : State, s.host = []) ∧
      ∃ (s : State) (bitlen : BitVec 60) (data : List Byte) (rest : List HostEvent),
        s.host = .word (encode (.absorb bitlen data)).1 :: rest ∧ s.din.length < ceil8 bitlen.toNat :=
  ⟨⟨absorbing, rfl⟩, presenting (encode (.absorb 9 [])).1 [0xa5] absorbing, 9, [], [], rfl, by decide +kernel⟩

theorem witness_HardResetClearsTheEngine :
    ∃ (s : State) (rest : List HostEvent), s.host = .hardReset :: rest :=
  ⟨{ oneByte with host := [.hardReset] }, [], rfl⟩

theorem witness_InitialisingEventsSetTheFields :
    configOk 64 1536 = true ∧ configOk 1600 0 = true ∧ absorbing.configured = true := by decide

theorem witness_Rotl64MovesEveryBit : (0 : Nat) ≤ 63 ∧ (1 : Nat) ≤ 63 ∧ (63 : Nat) ≤ 63 ∧ (63 : Nat) < 64 := by decide

theorem witness_lane_coordinates : (0 : Nat) < 5 ∧ (4 : Nat) < 5 ∧ (63 : Nat) < 64 ∧ (24 : Fin 25).val ≠ 0 := by decide

theorem witness_PiMovesEachLane_order : (0 : Nat) < 1 ∧ (1 : Nat) < 24 ∧ (0 : Nat) < 23 ∧ (23 : Nat) < 24 := by decide

theorem witness_QueueBitPositions : (199 : Fin 200).val ≠ (0 : Fin 1600).val / 8 := by decide

theorem witness_AbsorbBlockXorsThenPermutes :
    ([1, 2, 3, 4, 5, 6, 7, 8] : List Byte).length = absorbing.rate.toNat / 8 := by decide

theorem witness_BlockXorByLanes :
    (1600 % 64 = 0 ∧ 1600 ≤ 1600 ∧ (List.replicate 200 (1 : Byte)).length = 1600 / 8) ∧
      (64 % 64 = 0 ∧ 64 ≤ 1600 ∧ (List.replicate 8 (1 : Byte)).length = 64 / 8) := by decide +kernel

theorem witness_ExtractReadsTheLeadingBytes : 200 ≤ 200 ∧ (199 : Fin 200).val < 200 := by decide

theorem witness_GeneralPaddingSetsTwoBits :
    (absorbing.rate.toNat % 64 = 0 ∧ absorbing.rate.toNat ≤ 1600 ∧
      absorbing.bitsInQueue.toNat + 1 < absorbing.rate.toNat) ∧
    ((queued 62 zeroQueue).bitsInQueue.toNat + 1 < (queued 62 zeroQueue).rate.toNat) := by decide +kernel

theorem witness_SpecialPaddingAbsorbsTwoBlocks :
    oneFreeBit.rate.toNat % 64 = 0 ∧ 64 ≤ oneFreeBit.rate.toNat ∧ oneFreeBit.rate.toNat ≤ 1600 ∧
      oneFreeBit.bitsInQueue.toNat + 1 = oneFreeBit.rate.toNat := by decide +kernel

theorem witness_ConfigResult : configOk 64 1536 = true ∧ configOk 0 1600 = false := by decide

theorem witness_ResetResult :
    absorbing.configured = true ∧ State.reset.configured = false ∧ (oneByte.configured = true ∧ Inv oneByte) ∧
      ∃ t u, exec .reset oneByte = .next t ∧ exec .reset t = .next u :=
  ⟨by decide, by decide, ⟨rfl, inv_oneByte⟩, _, _, rfl, rfl⟩

theorem witness_RdsrResult :
    (0 : BitVec 8).toNat = 0 ∧ (1 : BitVec 8).toNat = 1 ∧ (2 : BitVec 8).toNat = 2 ∧ (3 : BitVec 8).toNat = 3 ∧
      (4 : BitVec 8).toNat = 4 ∧ (5 ≤ (5 : BitVec 8).toNat ∧ (5 : BitVec 8).toNat ≤ 31) ∧
      (5 ≤ (31 : BitVec 8).toNat ∧ (31 : BitVec 8).toNat ≤ 31) ∧ (32 : BitVec 8).toNat = 32 + (0 : Fin 25).val ∧
      (56 : BitVec 8).toNat = 32 + (24 : Fin 25).val ∧ 57 ≤ (57 : BitVec 8).toNat ∧ 57 ≤ (255 : BitVec 8).toNat := by
  decide

theorem witness_AbsorbPreconditions :
    ceil8 (0 : BitVec 60).toNat ≤ ([] : List Byte).length ∧ State.reset.configured = false ∧
      oneFreeBit.bitsInQueue.toNat % 8 ≠ 0 ∧ (squeezing 64).squeezing = true := by decide +kernel

theorem witness_AbsorbPreconditions_presented :
    ∃ (s : State) (rest : List HostEvent) (din : List Byte),
      s.host = .word (encode (.absorb 8 [0xff])).1 :: rest ∧ s.din = (encode (.absorb 8 [0xff])).2 ++ din ∧
        ceil8 (8 : BitVec 60).toNat ≤ ([0xff] : List Byte).length ∧ s.bitsInQueue.toNat % 8 ≠ 0 :=
  ⟨presenting (encode (.absorb 8 [0xff])).1 [0xff, 1] oneFreeBit, [], [1], rfl, by decide +kernel⟩

theorem witness_OnlyIllFormedAbsorbIsRefused :
    ([] : List Byte).length < ceil8 (1 : BitVec 60).toNat ∧ (Instr.absorb 8 [0xa5]).wellFormed = true := by decide

theorem witness_AbsorbNetEffect :
    Inv oneByte ∧ oneByte.configured = true ∧ oneByte.squeezing = false ∧ oneByte.bitsInQueue.toNat % 8 = 0 ∧
      ceil8 (61 : BitVec 60).toNat ≤ (List.replicate 8 (0xff : Byte)).length :=
  ⟨inv_oneByte, by decide +kernel⟩

theorem witness_AbsorbIsIncremental :
    Inv oneByte ∧ oneByte.configured = true ∧ oneByte.squeezing = false ∧ oneByte.bitsInQueue.toNat % 8 = 0 ∧
      (16 : BitVec 60).toNat = 8 * ([1, 2] : List Byte).length ∧
      ceil8 (5 : BitVec 60).toNat ≤ ([0x1f] : List Byte).length ∧
      (21 : BitVec 60).toNat = (16 : BitVec 60).toNat + (5 : BitVec 60).toNat :=
  ⟨inv_oneByte, by decide +kernel⟩

/-- V10 e: `a5 0f` and `a5 ff` carry the same 12 bits. -/
theorem witness_AbsorbReadsOnlyTheCountedBits :
    ceil8 (12 : BitVec 60).toNat ≤ ([0xa5, 0x0f] : List Byte).length ∧
      ceil8 (12 : BitVec 60).toNat ≤ ([0xa5, 0xff, 7] : List Byte).length ∧
      ∀ k, k < (12 : BitVec 60).toNat →
        payloadBit ([0xa5, 0x0f] : List Byte) k = payloadBit ([0xa5, 0xff, 7] : List Byte) k := by decide +kernel

theorem witness_SqueezePadsLazily :
    State.reset.configured = false ∧ (oneByte.configured = true ∧ oneByte.squeezing = false) ∧
      (oneFreeBit.configured = true ∧ oneFreeBit.squeezing = false ∧ (0 : BitVec 60) = 0) ∧
      (squeezing 0).configured = true := by decide +kernel

theorem witness_SqueezeReadsTheOutputStream :
    (Inv oneFreeBit ∧ oneFreeBit.configured = true) ∧ (Inv (squeezing 0) ∧ (squeezing 0).configured = true) ∧
      (Inv (squeezing 64) ∧ (squeezing 64).configured = true) ∧ (8 : BitVec 60) ≠ 0 :=
  ⟨⟨inv_oneFreeBit, rfl⟩, ⟨inv_squeezing_empty, rfl⟩, ⟨inv_squeezing_full, rfl⟩, by decide⟩

theorem witness_SqueezesReadOneStream :
    Inv oneByte ∧ oneByte.configured = true ∧ oneByte.squeezing = false ∧ ([0, 9, 8] : List (BitVec 60)) ≠ [] ∧
      ([0] : List (BitVec 60)) ≠ [] :=
  ⟨inv_oneByte, rfl, rfl, by decide, by decide⟩

theorem witness_EngineComputesTheSponge :
    let chunks : List (BitVec 60 × List Byte) := [(16, [1, 2]), (0, []), (47, [3, 4, 5, 6, 7, 8])]
    configOk 64 1536 = true ∧ (∀ x ∈ chunks, ceil8 x.1.toNat ≤ x.2.length) ∧
      (∀ x ∈ chunks.dropLast, x.1.toNat % 8 = 0) := by decide +kernel

theorem witness_StepKeepsTheInvariant : ∃ s t : State, Inv s ∧ step s = .next t ∧ t.cp = 1 := by
  have h : leadsTo (step (presenting 0x2000000000000008 [0xa5] absorbing)) (fun t => t.cp == 1) = true := by
    decide +kernel
  obtain ⟨t, ht, hp⟩ := exists_of_leadsTo h
  exact ⟨_, t, inv_reset_like _ rfl (by constructor <;> decide +kernel), ht, by simpa using hp⟩

theorem witness_FailedCommandsChangeNothing :
    ∃ (s t : State) (w : CmdWord) (rest : List HostEvent) (r : Response), s.host = .word w :: rest ∧
      step s = .next t ∧ t.responses = s.responses ++ [r] ∧ r.status ≠ .ok := by
  have h : leadsTo (step (presenting 0x2000000000000008 [0, 9] State.reset))
      (fun t => decide (t.responses = [] ++ [⟨.invalidState, []⟩])) = true := by decide +kernel
  obtain ⟨t, ht, hp⟩ := exists_of_leadsTo h
  exact ⟨_, t, _, _, ⟨.invalidState, []⟩, rfl, ht, of_decide_eq_true hp, by decide⟩

theorem witness_StatusTable :
    (∃ t, exec (.rdsr 5) oneByte = .next t) ∧
      ∃ (s : State) (w : CmdWord) (rest : List HostEvent), s.host = .word w :: rest ∧ decodeWord w [] = none :=
  ⟨⟨_, rfl⟩, witness_ReservedWordsFail⟩

theorem witness_CommandsDependOnTheEngineOnly :
    SameEngine oneByte { oneByte with cp := 7, din := [1] } ∧ ∃ t, exec (.rdsr 1) oneByte = .next t :=
  ⟨⟨rfl, rfl, rfl, rfl, rfl, rfl, rfl, rfl⟩, _, rfl⟩

theorem witness_ProtocolTransitions :
    (Inv absorbing ∧ ∃ t, exec (.config 64 1536) absorbing = .next t) ∧
      (∃ t, exec (.absorb 0 []) absorbing = .next t) ∧
      (Inv (squeezing 64) ∧ ∃ t, exec (.squeeze 0) (squeezing 64) = .next t) ∧
      (∃ t, exec .reset absorbing = .next t) ∧ ∃ t, exec (.rdsr 0) absorbing = .next t :=
  ⟨⟨inv_absorbing, _, rfl⟩, ⟨_, rfl⟩, ⟨inv_squeezing_full, _, rfl⟩, ⟨_, rfl⟩, _, rfl⟩

theorem witness_PhaseChangesOnlyByRule :
    (∃ s t : State, step s = .next t ∧ s.squeezing = false ∧ t.squeezing = true) ∧
      ∃ s t : State, step s = .next t ∧ s.squeezing = true ∧ t.squeezing = false := by
  have h : leadsTo (step (presenting 0x3000000000000000 [] oneByte)) State.squeezing = true := by decide +kernel
  have h' : leadsTo (step (presenting 0x4000000000000000 [] (squeezing 8))) (fun t => !t.squeezing) = true := by
    decide +kernel
  obtain ⟨t, ht, hp⟩ := exists_of_leadsTo h
  obtain ⟨t', ht', hp'⟩ := exists_of_leadsTo h'
  exact ⟨⟨_, t, ht, rfl, hp⟩, _, t', ht', rfl, by simpa using hp'⟩

theorem witness_ParametersChangeOnlyByConfig :
    (∃ s t : State, step s = .next t ∧ ¬ SameParameters s t ∧ s.configured = false ∧ t.configured = true) ∧
      ∃ s t : State, step s = .next t ∧ s.configured = true ∧ t.configured = false := by
  have h : leadsTo (step (presenting 0x1000000002000440 [] State.reset)) (fun t => t.configured) = true := by
    decide +kernel
  obtain ⟨t, ht, hp⟩ := exists_of_leadsTo h
  refine ⟨⟨_, t, ht, ?_, rfl, hp⟩, { oneByte with host := [.hardReset] }, _, rfl, rfl, rfl⟩
  intro hsame
  rw [← hsame.2.2] at hp
  exact absurd hp (by decide)

theorem witness_AbsorbAndSqueezeFrames :
    (∃ t, exec (.absorb 0 []) absorbing = .next t) ∧ ∃ t, exec (.squeeze 0) (squeezing 8) = .next t :=
  ⟨⟨_, rfl⟩, _, rfl⟩

/-- Two states at rate 64 that differ in a stale byte, after a message byte. -/
theorem witness_StaleQueueBytesAreUnobservable :
    Inv oneByte ∧ Inv (queued 8 (writeQueue 0 [0xa5, 0x77] zeroQueue)) ∧
      SameUpToStale oneByte (queued 8 (writeQueue 0 [0xa5, 0x77] zeroQueue)) ∧
      ∃ t, exec (.rdsr 3) oneByte = .next t :=
  ⟨inv_oneByte, inv_reset_like _ rfl (by constructor <;> decide +kernel),
    ⟨rfl, rfl, rfl, rfl, rfl, rfl, rfl, rfl, ⟨rfl, rfl⟩, rfl, by decide +kernel, fun h => by cases h⟩, _, rfl⟩

theorem witness_ClearingEventsEraseThePast :
    (∃ t t', configOk 64 1536 = true ∧ exec (.config 64 1536) oneByte = .next t ∧
      exec (.config 64 1536) (squeezing 8) = .next t' ∧ ∃ v, runCommands [.rdsr 32] t = .next v) ∧
    (∃ t t', oneByte.configured = true ∧ SameParameters oneByte (squeezing 8) ∧ exec .reset oneByte = .next t ∧
      exec .reset (squeezing 8) = .next t') ∧
    ∃ v, runCommands [.rdsr 32] (hardReset oneByte) = .next v :=
  ⟨⟨_, _, by decide, rfl, rfl, _, rfl⟩, ⟨_, _, rfl, ⟨rfl, rfl, rfl⟩, rfl, rfl⟩, _, rfl⟩

theorem witness_XorKeepsAndRefillIgnoresTheCapacityRegion :
    (8 ≤ (8 : Fin 200).val ∧ 200 - 1 ≤ (199 : Fin 200).val) ∧
      ∀ j : Fin 200, j.val < absorbing.rate.toNat / 8 →
        (bytesOfLanes ((Vector.replicate 25 0).set 1 0xFF))[j] = (bytesOfLanes absorbing.A)[j] := by decide +kernel

end Sys2Proof.Tests
end

section
/-! Status register reads, the initialising commands and the phase flag: what the meanings of `RDSR`, `CONFIG`, `RESET` and
`SQUEEZE` answer in each case (10_state.md R31, R34, R43; 43_sponge_commands.md R160, R185, R190). -/

namespace Sys2Proof.Machine

/-! ### The initialising commands -/

theorem exec_config_of_configOk {r c : BitVec 16} (h : configOk r c = true) (s : State) :
    exec (.config r c) s = .next (complete .ok []
      { clearSession s with rate := r.setWidth 11, capacity := c.setWidth 11, configured := true }) := by
  rw [exec, execConfig, if_pos h]

theorem exec_reset_of_configured {s : State} (h : s.configured = true) :
    exec .reset s = .next (complete .ok [] (clearSession s)) := by
  rw [exec, execReset, if_pos h]

/-- The 11-bit fields hold the 16-bit operands of a legal `CONFIG` exactly. -/
theorem toNat_setWidth_of_configOk {r c : BitVec 16} (h : configOk r c = true) :
    (r.setWidth 11).toNat = r.toNat ∧ (c.setWidth 11).toNat = c.toNat := by
  obtain ⟨hr, hc⟩ := configOk_bounds h
  simp only [BitVec.toNat_setWidth]
  omega

/-! ### Status registers (10_state.md R34) -/

theorem exec_rdsr_of_some {idx : BitVec 8} {s : State} {v : BitVec 64} (h : statusRegister idx s = some v) :
    exec (.rdsr idx) s = .next (complete .ok (bytesLE v) s) := by
  rw [exec, execRdsr, h]

theorem exec_rdsr_of_none {idx : BitVec 8} {s : State} (h : statusRegister idx s = none) :
    exec (.rdsr idx) s = .next (fail .invalidCommand s) := by
  rw [exec, execRdsr, h]

@[simp] theorem ctrlWord_getLsbD_zero (s : State) : (ctrlWord s).getLsbD 0 = s.configured := by
  simp [ctrlWord]

@[simp] theorem ctrlWord_getLsbD_one (s : State) : (ctrlWord s).getLsbD 1 = s.squeezing := by
  simp [ctrlWord]

theorem ctrlWord_getLsbD_of_two_le (s : State) {k : Nat} (h : 2 ≤ k) : (ctrlWord s).getLsbD k = false := by
  have hsq : (BitVec.ofBool s.squeezing).getLsbD (k - 1) = false := BitVec.getLsbD_of_ge _ _ (by omega)
  have hconf : (BitVec.ofBool s.configured).getLsbD k = false := BitVec.getLsbD_of_ge _ _ (by omega)
  simp [ctrlWord, hsq, hconf]

theorem statusRegister_ctrl (s : State) : statusRegister 0 s = some (ctrlWord s) := rfl
theorem statusRegister_rate (s : State) : statusRegister 1 s = some (s.rate.setWidth 64) := rfl
theorem statusRegister_capacity (s : State) : statusRegister 2 s = some (s.capacity.setWidth 64) := rfl
theorem statusRegister_bitsInQueue (s : State) : statusRegister 3 s = some (s.bitsInQueue.setWidth 64) := rfl
theorem statusRegister_bitsForSqueezing (s : State) : statusRegister 4 s = some (s.bitsForSqueezing.setWidth 64) := rfl

/-- From 5 on an index names no counter, so the register is decided by the lane range alone. -/
theorem statusRegister_of_five_le {idx : BitVec 8} (h : 5 ≤ idx.toNat) (s : State) :
    statusRegister idx s = if 32 ≤ idx.toNat then s.A[idx.toNat - 32]? else none := by
  have ne_of_lt : ∀ k : BitVec 8, k.toNat < 5 → idx ≠ k := by rintro k hk rfl; omega
  simp only [statusRegister, ne_of_lt 0 (by decide), ne_of_lt 1 (by decide), ne_of_lt 2 (by decide),
    ne_of_lt 3 (by decide), ne_of_lt 4 (by decide), if_false]

theorem statusRegister_lane {idx : BitVec 8} (s : State) (i : Fin 25) (h : idx.toNat = 32 + i.val) :
    statusRegister idx s = some s.A[i] := by
  rw [statusRegister_of_five_le (by omega), if_pos (by omega), h, Nat.add_sub_cancel_left]
  exact Vector.getElem?_eq_getElem i.isLt

theorem statusRegister_reserved {idx : BitVec 8} (s : State)
    (h : 5 ≤ idx.toNat ∧ idx.toNat ≤ 31 ∨ 57 ≤ idx.toNat) : statusRegister idx s = none := by
  rw [statusRegister_of_five_le (by omega)]
  split
  · exact Vector.getElem?_eq_none (by omega)
  · rfl

/-- An 11-bit field read as a 64-bit status register keeps its value. -/
theorem toNat_setWidth_cursor (v : Cursor) : (v.setWidth 64).toNat = v.toNat :=
  BitVec.toNat_setWidth_of_le (by decide)

/-! ### The phase flag (10_state.md R31) -/

/-- What a command does to the phase: keeps it, enters Squeezing (`SQUEEZE` of an instance), or returns to Absorbing
(`RESET`, a legal `CONFIG`). -/
theorem exec_squeezing_cases {i : Instr} {s t : State} (h : exec i s = .next t) :
    t.squeezing = s.squeezing ∨
      (t.squeezing = true ∧ s.configured = true ∧ ∃ n, i = .squeeze n) ∨
      (t.squeezing = false ∧ (i = .reset ∨ ∃ r c, i = .config r c ∧ configOk r c = true)) := by
  cases i with
  | config r c =>
    obtain ⟨hok, rfl⟩ | ⟨-, rfl⟩ := execConfig_cases h
    · exact .inr (.inr ⟨rfl, .inr ⟨r, c, rfl, hok⟩⟩)
    · exact .inl rfl
  | absorb n d =>
    obtain ⟨-, ⟨-, rfl⟩ | ⟨-, rfl⟩⟩ := execAbsorb_cases h
    · obtain ⟨-, -, -, hsq, -⟩ := absorbLoop_keeps n.toNat n.toNat d s
      exact .inl hsq
    · exact .inl rfl
  | squeeze n =>
    obtain ⟨hc, rfl⟩ | ⟨-, rfl⟩ := execSqueeze_cases h
    · obtain ⟨-, -, -, hsq, -⟩ := squeezeLoop_keeps n.toNat n.toNat (enterSqueezing s)
      exact .inr (.inl ⟨hsq.trans (enterSqueezing_squeezing s), hc, n, rfl⟩)
    · exact .inl rfl
  | reset =>
    obtain ⟨-, rfl⟩ | ⟨-, rfl⟩ := execReset_cases h
    · exact .inr (.inr ⟨rfl, .inl rfl⟩)
    · exact .inl rfl
  | rdsr idx =>
    obtain ⟨v, -, rfl⟩ | ⟨-, rfl⟩ := execRdsr_cases h
    · exact .inl rfl
    · exact .inl rfl

/-- What a step does to the phase: keeps it, or hard reset, a `SQUEEZE`, a `RESET` or a legal `CONFIG` was presented. -/
theorem step_squeezing_cases {s t : State} (h : step s = .next t) :
    t.squeezing = s.squeezing ∨
      (t.squeezing = false ∧ ∃ rest, s.host = .hardReset :: rest) ∨
      ∃ w rest i din, s.host = .word w :: rest ∧ decode w s.din = .command i din ∧
        ((t.squeezing = true ∧ s.configured = true ∧ ∃ n, i = .squeeze n) ∨
          (t.squeezing = false ∧ (i = .reset ∨ ∃ r c, i = .config r c ∧ configOk r c = true))) := by
  obtain rfl | ⟨rest, hhost, rfl⟩ | ⟨w, rest, -, -, rfl⟩ | ⟨w, rest, i, din, hhost, hdec, hexec⟩ := step_cases h
  · exact .inl rfl
  · exact .inr (.inl ⟨rfl, rest, hhost⟩)
  · exact .inl rfl
  · obtain hkeep | hchange := exec_squeezing_cases hexec
    · exact .inl hkeep
    · exact .inr (.inr ⟨w, rest, i, din, hhost, hdec, hchange⟩)

end Sys2Proof.Machine
end

section
/-! The statements on status registers, the phase flag and the initialising events (10_state.md). -/

open Sys2Proof Sys2Proof.Machine

/-- Settles O33: the answer depends on `statusRegister` alone, whose value at each index is read off. -/
theorem rdsrResult : Obligations.RdsrResult := by
  intro s idx returns
  -- The eight bytes of `bytesLE` are the mapped range of the statement, evaluated.
  have returns_of {v : BitVec 64} (h : statusRegister idx s = some v) : returns v := exec_rdsr_of_some h
  refine ⟨fun h => ?_, fun h => ?_, fun h => ?_, fun h => ?_, fun h => ?_, fun i h => ?_, fun h => ?_⟩
  · obtain rfl : idx = 0 := BitVec.eq_of_toNat_eq h
    exact ⟨ctrlWord s, returns_of (statusRegister_ctrl s), ctrlWord_getLsbD_zero s, ctrlWord_getLsbD_one s,
      fun _ hk => ctrlWord_getLsbD_of_two_le s hk⟩
  · obtain rfl : idx = 1 := BitVec.eq_of_toNat_eq h
    exact ⟨_, returns_of (statusRegister_rate s), toNat_setWidth_cursor _⟩
  · obtain rfl : idx = 2 := BitVec.eq_of_toNat_eq h
    exact ⟨_, returns_of (statusRegister_capacity s), toNat_setWidth_cursor _⟩
  · obtain rfl : idx = 3 := BitVec.eq_of_toNat_eq h
    exact ⟨_, returns_of (statusRegister_bitsInQueue s), toNat_setWidth_cursor _⟩
  · obtain rfl : idx = 4 := BitVec.eq_of_toNat_eq h
    exact ⟨_, returns_of (statusRegister_bitsForSqueezing s), toNat_setWidth_cursor _⟩
  · exact returns_of (statusRegister_lane s i h)
  · exact exec_rdsr_of_none (statusRegister_reserved s h)

/-- Settles O49: of the ways a step can treat the flag, each direction of change leaves only the causes R31 names. -/
theorem phaseChangesOnlyByRule : Obligations.PhaseChangesOnlyByRule := by
  intro s t h
  obtain hkeep | ⟨hclear, hreset⟩ | ⟨w, rest, i, din, hhost, hdec, ⟨hset, hconf, n, rfl⟩ | ⟨hclear, hcause⟩⟩ :=
    step_squeezing_cases h
  · constructor <;> intro hs ht <;> simp [hkeep, hs] at ht
  · exact ⟨fun _ ht => by simp [hclear] at ht, fun _ _ => .inl hreset⟩
  · exact ⟨fun _ _ => ⟨w, rest, n, din, hhost, hdec, hconf⟩, fun _ ht => by simp [hset] at ht⟩
  · exact ⟨fun _ ht => by simp [hclear] at ht, fun _ _ => .inr ⟨w, rest, i, din, hhost, hdec, hcause⟩⟩

/-- Settles O9: the three columns of R43, each read off the state the event leaves. -/
theorem initialisingEventsSetTheFields : Obligations.InitialisingEventsSetTheFields := by
  refine ⟨⟨rfl, rfl, rfl, rfl, rfl, rfl, rfl, rfl⟩, fun s r c h => ?_, fun s h => ?_⟩
  · obtain ⟨hrate, hcap⟩ := toNat_setWidth_of_configOk h
    exact ⟨_, exec_config_of_configOk h s, rfl, rfl, hrate, hcap, rfl, rfl, rfl, rfl⟩
  · exact ⟨_, exec_reset_of_configured h, rfl, rfl, rfl, rfl, rfl, rfl, rfl, h⟩

end

section
/-! Lanes, bytes and queue positions (20_memory.md R50 to R53): a lane is determined by its eight bytes and the byte view
reads them in order; the mask of a single queue position. -/

namespace Sys2Proof.Machine

/-! ### Lanes and bytes (R50, R52) -/

/-- A byte shifted to byte position `q` of a lane is read back there, and every other byte of that lane is zero. -/
theorem extractLsb'_byte_shiftLeft (x : Byte) (q : Nat) (k : Fin 8) :
    (x.setWidth 64 <<< (8 * q)).extractLsb' (8 * k.val) 8 = if k.val = q then x else 0 := by
  apply BitVec.eq_of_getLsbD_eq
  intro m hm
  have hbit : (x.setWidth 64 <<< (8 * q)).getLsbD (8 * k.val + m) =
      (!decide (8 * k.val + m < 8 * q) && x.getLsbD (8 * k.val + m - 8 * q)) := by
    have h64 : 8 * k.val + m < 64 := by omega
    simp [h64]
  rw [BitVec.getLsbD_extractLsb', hbit]
  obtain hlt | heq | hgt := Nat.lt_trichotomy k.val q
  · have : 8 * k.val + m < 8 * q := by omega
    simp [this, hlt.ne]
  · simp [heq, hm]
  · have hbeyond : x.getLsbD (8 * k.val + m - 8 * q) = false := BitVec.getLsbD_of_ge _ _ (by omega)
    simp [hbeyond, hgt.ne']

theorem laneOfBytes_extractLsb' (b : Bytes200) (i : Fin 25) (k : Fin 8) :
    (laneOfBytes b i).extractLsb' (8 * k.val) 8 = b[8 * i.val + k.val] := by
  -- `laneOfBytes` writes the byte at position 0 without a shift and the other shifts as numerals.
  have byteAt (x : Byte) (q : Nat) := extractLsb'_byte_shiftLeft x q k
  have h0 := byteAt b[8 * i.val] 0
  rw [Nat.mul_zero, BitVec.shiftLeft_zero] at h0
  simp only [laneOfBytes, BitVec.extractLsb'_or, h0, byteAt _ 1, byteAt _ 2, byteAt _ 3, byteAt _ 4, byteAt _ 5,
    byteAt _ 6, byteAt _ 7]
  fin_cases k <;> simp

/-- A lane is determined by its eight bytes. -/
theorem lane_eq_of_bytes_eq {x y : Lane}
    (h : ∀ k : Fin 8, x.extractLsb' (8 * k.val) 8 = y.extractLsb' (8 * k.val) 8) : x = y := by
  apply BitVec.eq_of_getLsbD_eq
  intro n hn
  have hbit := congrArg (BitVec.getLsbD · (n % 8)) (h ⟨n / 8, by omega⟩)
  simpa [BitVec.getLsbD_extractLsb', Nat.mod_lt, Nat.div_add_mod] using hbit

theorem bytesOfLanes_get_byte (A : Lanes) (i : Fin 25) (k : Fin 8) :
    (bytesOfLanes A)[8 * i.val + k.val] = (A[i]).extractLsb' (8 * k.val) 8 := by
  have hdiv : (8 * i.val + k.val) / 8 = i.val := by omega
  have hmod : (8 * i.val + k.val) % 8 = k.val := by omega
  simp [bytesOfLanes_get, sByte, hdiv, hmod]

theorem lanesOfBytes_extractLsb' (b : Bytes200) (i : Fin 25) (k : Fin 8) :
    ((lanesOfBytes b)[i]).extractLsb' (8 * k.val) 8 = b[8 * i.val + k.val] := by
  rw [Fin.getElem_fin, lanesOfBytes_get, laneOfBytes_extractLsb']

/-- `bytes_of_lanes(lanes_of_bytes(b)) = b` (R52), byte by byte. -/
@[simp] theorem bytesOfLanes_lanesOfBytes (b : Bytes200) : bytesOfLanes (lanesOfBytes b) = b := by
  ext1 j hj
  have hbyte := (bytesOfLanes_get_byte (lanesOfBytes b) ⟨j / 8, by omega⟩ ⟨j % 8, by omega⟩).trans
    (lanesOfBytes_extractLsb' b _ _)
  simpa only [Nat.div_add_mod] using hbyte

/-- `lanes_of_bytes(bytes_of_lanes(A)) = A` (R52): each lane has the bytes it had. -/
@[simp] theorem lanesOfBytes_bytesOfLanes (A : Lanes) : lanesOfBytes (bytesOfLanes A) = A := by
  ext1 i hi
  apply lane_eq_of_bytes_eq
  intro k
  exact (lanesOfBytes_extractLsb' (bytesOfLanes A) ⟨i, hi⟩ k).trans (bytesOfLanes_get_byte A ⟨i, hi⟩ k)

/-! ### Queue positions (R53) -/

/-- Clearing one position keeps, in its own byte, all bits but that one. -/
theorem keepMask_single_same (p : Nat) : keepMask p (p + 1) (p / 8) = ~~~(1#8 <<< (p % 8)) := by
  apply BitVec.eq_of_getLsbD_eq
  intro k hk
  have hpos : (decide (p ≤ 8 * (p / 8) + k) && decide (8 * (p / 8) + k < p + 1)) = decide (k = p % 8) := by
    rw [← Bool.decide_and, decide_eq_decide]
    omega
  have hbit : (1#8 <<< (p % 8)).getLsbD k = decide (k = p % 8) := by
    rw [← BitVec.twoPow_eq, BitVec.getLsbD_twoPow, decide_eq_true (Nat.mod_lt p (by decide)), Bool.true_and]
    exact decide_eq_decide.mpr eq_comm
  rw [keepMask_getLsbD _ _ _ _ hk, hpos, BitVec.getLsbD_not, hbit, decide_eq_true hk, Bool.true_and]

/-- Clearing one position keeps every bit of every other byte. -/
theorem keepMask_single_other {p j : Nat} (h : j ≠ p / 8) : keepMask p (p + 1) j = BitVec.allOnes 8 := by
  apply BitVec.eq_of_getLsbD_eq
  intro k hk
  have hpos : ¬(p ≤ 8 * j + k ∧ 8 * j + k < p + 1) := by omega
  rw [keepMask_getLsbD _ _ _ _ hk, ← Bool.decide_and, decide_eq_false hpos, BitVec.getLsbD_allOnes, decide_eq_true hk,
    Bool.not_false]

end Sys2Proof.Machine
end

section
/-! The statements on the byte view of the lanes and on queue positions (20_memory.md). -/

open Sys2Proof Sys2Proof.Machine

/-- Settles O19: each view is read a byte at a time, and two lanes or byte strings with the same bytes are equal. -/
theorem laneAndByteViewsAgree : Obligations.LaneAndByteViewsAgree :=
  ⟨bytesOfLanes_get_byte, lanesOfBytes_extractLsb', bytesOfLanes_lanesOfBytes, lanesOfBytes_bytesOfLanes⟩

/-- Settles O21: clearing one position is clearing a range of length one, whose mask is known in each byte. -/
theorem queueBitPositions : Obligations.QueueBitPositions := by
  intro Q p
  refine ⟨qbit_of_lt Q p.val p.isLt, ?_, ?_, fun j hj => ⟨?_, ?_⟩⟩
  · rw [setQbit_get, if_pos rfl]
  · rw [clearQbits_get, keepMask_single_same]
  · exact (setQbit_get p.val Q j.val j.isLt).trans (if_neg hj)
  · rw [Fin.getElem_fin, clearQbits_get, keepMask_single_other hj, BitVec.and_allOnes, Fin.getElem_fin]

end

section
/-! Decoding (30_encoding.md R82 to R91): the row a word matches, said by the word's opcode and `ZERO` fields, and what the
decoder and the step answer for it. -/

namespace Sys2Proof

/-! ### Rows and fields (R82 to R89) -/

/-- Every mask of R89 keeps the bits from some `k` on, so that a row compares the words above those bits. -/
theorem rowMatches_iff_toNat_div {mask pattern : CmdWord} {k : Nat} (hmask : mask = BitVec.allOnes 64 <<< k)
    (hpattern : pattern &&& mask = pattern) (w : CmdWord) :
    rowMatches mask pattern w = true ↔ w.toNat / 2 ^ k = pattern.toNat / 2 ^ k := by
  have hkept (x : CmdWord) : (x &&& mask).toNat = x.toNat / 2 ^ k * 2 ^ k := by
    have hlt : x.toNat / 2 ^ k * 2 ^ k < 2 ^ 64 := (Nat.div_mul_le_self _ _).trans_lt x.isLt
    rw [hmask, ← BitVec.shiftLeft_ushiftRight, BitVec.toNat_shiftLeft, BitVec.toNat_ushiftRight,
      Nat.shiftRight_eq_div_pow, Nat.shiftLeft_eq, Nat.mod_eq_of_lt hlt]
  rw [rowMatches, beq_iff_eq, ← Nat.mul_left_inj (Nat.two_pow_pos k).ne', ← hkept, ← hkept, hpattern, BitVec.toNat_inj]

theorem fieldOpc_eq_iff (w : CmdWord) (o : BitVec 4) : fieldOpc w = o ↔ w.toNat / 2 ^ 60 = o.toNat := by
  rw [← BitVec.toNat_inj, fieldOpc, BitVec.extractLsb'_toNat, Nat.shiftRight_eq_div_pow]
  omega

theorem extractLsb'_eq_zero_iff (w : CmdWord) (start len : Nat) :
    w.extractLsb' start len = 0 ↔ w.toNat / 2 ^ start % 2 ^ len = 0 := by
  rw [← BitVec.toNat_inj, BitVec.extractLsb'_toNat, Nat.shiftRight_eq_div_pow, BitVec.ofNat_eq_ofNat, BitVec.toNat_ofNat,
    Nat.zero_mod]

@[simp] theorem rowMatches_config_iff (w : CmdWord) :
    rowMatches configMask configMatch w = true ↔ fieldOpc w = 1 ∧ w.extractLsb' 32 28 = 0 := by
  rw [rowMatches_iff_toNat_div (k := 32) (by decide) (by decide), fieldOpc_eq_iff, extractLsb'_eq_zero_iff]
  simp only [configMatch, BitVec.reduceToNat]
  omega

@[simp] theorem rowMatches_absorb_iff (w : CmdWord) : rowMatches absorbMask absorbMatch w = true ↔ fieldOpc w = 2 := by
  rw [rowMatches_iff_toNat_div (k := 60) (by decide) (by decide), fieldOpc_eq_iff]
  rfl

@[simp] theorem rowMatches_squeeze_iff (w : CmdWord) : rowMatches squeezeMask squeezeMatch w = true ↔ fieldOpc w = 3 := by
  rw [rowMatches_iff_toNat_div (k := 60) (by decide) (by decide), fieldOpc_eq_iff]
  rfl

@[simp] theorem rowMatches_reset_iff (w : CmdWord) :
    rowMatches resetMask resetMatch w = true ↔ fieldOpc w = 4 ∧ w.extractLsb' 0 60 = 0 := by
  rw [rowMatches_iff_toNat_div (k := 0) (by decide) (by decide), fieldOpc_eq_iff, extractLsb'_eq_zero_iff]
  simp only [resetMatch, BitVec.reduceToNat]
  omega

@[simp] theorem rowMatches_rdsr_iff (w : CmdWord) :
    rowMatches rdsrMask rdsrMatch w = true ↔ fieldOpc w = 5 ∧ w.extractLsb' 8 52 = 0 := by
  rw [rowMatches_iff_toNat_div (k := 8) (by decide) (by decide), fieldOpc_eq_iff, extractLsb'_eq_zero_iff]
  simp only [rdsrMatch, BitVec.reduceToNat]
  omega

/-! ### The decoder (R90, R91) -/

theorem decodeWord_eq_none_iff (w : CmdWord) (payload : List Byte) : decodeWord w payload = none ↔
    ¬rowMatches configMask configMatch w = true ∧ ¬rowMatches absorbMask absorbMatch w = true ∧
      ¬rowMatches squeezeMask squeezeMatch w = true ∧ ¬rowMatches resetMask resetMatch w = true ∧
      ¬rowMatches rdsrMask rdsrMatch w = true := by
  unfold decodeWord
  split_ifs <;> simp [*]

/-- The answers of the decoder, each with the row whose match it rests on. -/
theorem decodeWord_cases (w : CmdWord) (payload : List Byte) :
    (rowMatches configMask configMatch w = true ∧
        decodeWord w payload = some (.config (fieldRate w) (fieldCap w))) ∨
      (rowMatches absorbMask absorbMatch w = true ∧ decodeWord w payload = some (.absorb (fieldLen w) payload)) ∨
      (rowMatches squeezeMask squeezeMatch w = true ∧ decodeWord w payload = some (.squeeze (fieldLen w))) ∨
      (rowMatches resetMask resetMatch w = true ∧ decodeWord w payload = some .reset) ∨
      (rowMatches rdsrMask rdsrMatch w = true ∧ decodeWord w payload = some (.rdsr (fieldIdx w))) ∨
      decodeWord w payload = none := by
  unfold decodeWord
  split_ifs <;> simp [*]

end Sys2Proof

namespace Sys2Proof.Machine

/-- A reserved word is answered `InvalidCommand` whatever is on `DIN`, and takes nothing from it. -/
theorem step_of_decodeWord_eq_none {s : State} {w : CmdWord} {rest : List HostEvent} (hhost : s.host = .word w :: rest)
    (hnone : decodeWord w [] = none) : step s = .next (fail .invalidCommand { s with host := rest }) := by
  simp only [step, fetch, hhost, (decode_reserved_iff w s.din).mpr hnone]

end Sys2Proof.Machine
end

section
/-! The statements on the rows of the opcode table and on reserved words (30_encoding.md). -/

open Sys2Proof Sys2Proof.Machine

/-- Settles O4: a row that matches fixes the opcode, so no other row matches, and the decoder's first match is the only
one. -/
theorem wordsMatchTheirTableRow : Obligations.WordsMatchTheirTableRow := by
  intro w payload config absorb squeeze reset rdsr
  have hconfig : config ↔ rowMatches configMask configMatch w = true := beq_iff_eq.symm
  have habsorb : absorb ↔ rowMatches absorbMask absorbMatch w = true := beq_iff_eq.symm
  have hsqueeze : squeeze ↔ rowMatches squeezeMask squeezeMatch w = true := beq_iff_eq.symm
  have hreset : reset ↔ rowMatches resetMask resetMatch w = true := beq_iff_eq.symm
  have hrdsr : rdsr ↔ rowMatches rdsrMask rdsrMatch w = true := beq_iff_eq.symm
  clear_value config absorb squeeze reset rdsr
  simp only [hconfig, habsorb, hsqueeze, hreset, hrdsr]
  obtain ⟨hrow, hdec⟩ | ⟨hrow, hdec⟩ | ⟨hrow, hdec⟩ | ⟨hrow, hdec⟩ | ⟨hrow, hdec⟩ | hdec :=
    decodeWord_cases w payload
  · obtain ⟨hopc, hzero⟩ := (rowMatches_config_iff w).mp hrow
    simp [hopc, hzero, hdec, fieldRate, fieldCap]
  · simp [(rowMatches_absorb_iff w).mp hrow, hdec, fieldLen]
  · simp [(rowMatches_squeeze_iff w).mp hrow, hdec, fieldLen]
  · obtain ⟨hopc, hzero⟩ := (rowMatches_reset_iff w).mp hrow
    simp [hopc, hzero, hdec]
  · obtain ⟨hopc, hzero⟩ := (rowMatches_rdsr_iff w).mp hrow
    simp [hopc, hzero, hdec, fieldIdx]
  · obtain ⟨hc, ha, hs, hr, hd⟩ := (decodeWord_eq_none_iff w payload).mp hdec
    simp [hc, ha, hs, hr, hd, hdec]

/-- Settles O5: no row matches exactly when the opcode is no row's, or is the opcode of a row whose `ZERO` field is not 0 in
the word. -/
theorem reservedWordsFail : Obligations.ReservedWordsFail := by
  refine ⟨fun w payload => ?_, fun s w rest => step_of_decodeWord_eq_none⟩
  rw [decodeWord_eq_none_iff]
  change _ ↔ (fieldOpc w = 0 ∨ 6 ≤ (fieldOpc w).toNat) ∨ (fieldOpc w = 1 ∧ _) ∨ (fieldOpc w = 4 ∧ _) ∨ (fieldOpc w = 5 ∧ _)
  have hopc : 6 ≤ (fieldOpc w).toNat ∨ fieldOpc w = 0 ∨ fieldOpc w = 1 ∨ fieldOpc w = 2 ∨ fieldOpc w = 3 ∨
      fieldOpc w = 4 ∨ fieldOpc w = 5 := by bv_omega
  obtain hbeyond | hrows := hopc
  · have hne (o : BitVec 4) (ho : o.toNat < 6) : fieldOpc w ≠ o := by rintro rfl; omega
    simp [hbeyond, hne]
  · obtain h | h | h | h | h | h := hrows <;> simp [h]

end

section
/-! The step mappings (41_permutation.md R112 to R122), each read one lane or one bit at a time. -/

namespace Sys2Proof.Machine

/-! ### `ROTL64` (R112) -/

@[simp] theorem rotl64_zero_right (a : Lane) : rotl64 a 0 = a := if_pos rfl

theorem rotl64_of_pos (a : Lane) {n : Nat} (h : 1 ≤ n) : rotl64 a n = a <<< n ||| a >>> (64 - n) :=
  if_neg (by omega)

/-- `ROTL64` is the library's rotation, the case `n = 0` included. -/
theorem rotl64_eq_rotateLeft (a : Lane) {n : Nat} (h : n < 64) : rotl64 a n = a.rotateLeft n := by
  rw [BitVec.rotateLeft, BitVec.rotateLeftAux, Nat.mod_eq_of_lt h]
  obtain rfl | hpos := Nat.eq_zero_or_pos n
  · have hall : a >>> 64 = 0 := BitVec.ushiftRight_eq_zero (by decide)
    simp [hall]
  · exact rotl64_of_pos a hpos

/-- Bit `k` of the result comes from `n` places below, from the top when there are not so many. -/
theorem getLsbD_rotl64 (a : Lane) {n k : Nat} (hn : n < 64) (hk : k < 64) :
    (rotl64 a n).getLsbD k = a.getLsbD ((k + (64 - n)) % 64) := by
  rw [rotl64_eq_rotateLeft a hn, BitVec.getLsbD_rotateLeft, Nat.mod_eq_of_lt hn]
  by_cases hlt : k < n
  · have hsrc : (k + (64 - n)) % 64 = 64 - n + k := by omega
    simp [hlt, hsrc]
  · have hsrc : (k + (64 - n)) % 64 = k - n := by omega
    simp [hlt, hk, hsrc]

/-- The same read from the source: bit `k` becomes bit `(k + n) mod 64`. -/
theorem getLsbD_rotl64_add_mod (a : Lane) {n k : Nat} (hn : n < 64) (hk : k < 64) :
    (rotl64 a n).getLsbD ((k + n) % 64) = a.getLsbD k := by
  rw [getLsbD_rotl64 a hn (Nat.mod_lt _ (by decide))]
  congr 1
  omega

/-- A lane whose 64 bits are equal is fixed by every rotation. -/
theorem rotl64_of_bits_eq {a : Lane} {b : Bool} (ha : ∀ k < 64, a.getLsbD k = b) {n : Nat} (hn : n < 64) :
    rotl64 a n = a := by
  apply BitVec.eq_of_getLsbD_eq
  intro k hk
  rw [getLsbD_rotl64 a hn hk, ha k hk, ha _ (Nat.mod_lt _ (by decide))]

theorem rotl64_zero {n : Nat} (hn : n < 64) : rotl64 0 n = 0 :=
  rotl64_of_bits_eq (fun _ _ => BitVec.getLsbD_zero) hn

theorem rotl64_allOnes {n : Nat} (hn : n < 64) : rotl64 (BitVec.allOnes 64) n = BitVec.allOnes 64 :=
  rotl64_of_bits_eq (b := true) (fun k hk => by rw [BitVec.getLsbD_allOnes, decide_eq_true hk]) hn

/-! ### Lanes by coordinates (10_state.md R21) -/

/-- Coordinates count modulo 5. -/
theorem laneAt_congr (A : Lanes) {x x' y y' : Nat} (hx : x % 5 = x' % 5) (hy : y % 5 = y' % 5) :
    laneAt A x y = laneAt A x' y' := by
  simp only [laneAt, hx, hy]

theorem laneAt_tabulate (f : Fin 25 → Lane) (x y : Nat) :
    laneAt (tabulate f) x y = f ⟨x % 5 + 5 * (y % 5), by omega⟩ :=
  tabulate_get f _ _

@[simp] theorem laneAt_replicate (a : Lane) (x y : Nat) : laneAt (Vector.replicate 25 a) x y = a :=
  Vector.getElem_replicate _

/-- A state is determined by its lanes at coordinates. -/
theorem lanes_ext {A B : Lanes} (h : ∀ x y, laneAt A x y = laneAt B x y) : A = B := by
  ext1 i hi
  have hindex : i % 5 % 5 + 5 * (i / 5 % 5) = i := by omega
  simpa only [laneAt, hindex] using h (i % 5) (i / 5)

/-! ### `THETA` (R113) -/

theorem laneAt_theta (A : Lanes) (x y : Nat) :
    laneAt (theta A) x y = laneAt A x y ^^^ (rotl64 (columnParity A (x + 1)) 1 ^^^ columnParity A (x + 4)) := by
  have parity (k : Nat) : columnParity A (((x % 5 + 5 * (y % 5)) % 5 + k) % 5) = columnParity A (x + k) := by
    have hcol : ((x % 5 + 5 * (y % 5)) % 5 + k) % 5 % 5 = (x + k) % 5 := by omega
    simp only [columnParity, laneAt_congr A hcol rfl]
  rw [theta, laneAt_tabulate]
  simp only [tabulate_get, parity]
  rfl

theorem theta_replicate_zero : theta (Vector.replicate 25 0) = Vector.replicate 25 0 := by
  apply lanes_ext
  intro x y
  have hparity (x : Nat) : columnParity (Vector.replicate 25 0) x = 0 := by simp [columnParity]
  rw [laneAt_theta, hparity, hparity, rotl64_zero (by decide), laneAt_replicate]
  rfl

/-! ### `RHO` (R114, R116) -/

theorem rhoOffset_lt (i : Fin 25) : rhoOffset[i] < 64 := by
  revert i; decide

theorem rho_get (A : Lanes) (i : Fin 25) : (rho A)[i] = rotl64 A[i] rhoOffset[i] :=
  tabulate_get _ _ _

/-! ### `PI` (R117, R118) -/

/-- R118's second table: the index of the lane that `PI` moves to index `d`. -/
def piSource (d : Fin 25) : Fin 25 := ⟨(d.val % 5 + 3 * (d.val / 5)) % 5 + 5 * (d.val % 5 % 5), by omega⟩

theorem pi_get (A : Lanes) (d : Fin 25) : (pi A)[d] = A[piSource d] :=
  tabulate_get _ _ _

theorem pi_iterate_get (A : Lanes) (k : Nat) (d : Fin 25) : (pi^[k] A)[d] = A[piSource^[k] d] := by
  induction k generalizing d with
  | zero => rfl
  | succ k ih =>
    rw [Function.iterate_succ_apply', pi_get, ih]
    rfl

theorem laneAt_pi (A : Lanes) (x y : Nat) : laneAt (pi A) x y = laneAt A (x + 3 * y) x := by
  rw [pi, laneAt_tabulate]
  exact laneAt_congr A (by simp only; omega) (by simp only; omega)

/-- Every index returns after 24 moves: index 0 at once, the others along one cycle. -/
theorem piSource_iterate_24 (d : Fin 25) : piSource^[24] d = d := by
  revert d; decide

/-- That cycle has no shorter period: index 1 is away from its place until then. -/
theorem piSource_iterate_one_ne {k : Nat} (h0 : 0 < k) (h24 : k < 24) : piSource^[k] 1 ≠ 1 := by
  have hcycle : ∀ k < 24, 0 < k → piSource^[k] 1 ≠ 1 := by decide
  exact hcycle k h24 h0

theorem pi_iterate_24 (A : Lanes) : pi^[24] A = A := by
  ext1 i hi
  simpa only [piSource_iterate_24, Fin.getElem_fin] using pi_iterate_get A 24 ⟨i, hi⟩

/-- The state of R117's example, every lane its own index. -/
def laneLabels : Lanes := tabulate fun i => BitVec.ofNat 64 i.val

theorem laneLabels_injective {i j : Fin 25} (h : laneLabels[i] = laneLabels[j]) : i = j := by
  have hget (i : Fin 25) : laneLabels[i] = BitVec.ofNat 64 i.val := tabulate_get _ _ _
  rw [hget, hget] at h
  bv_omega

/-! ### `CHI` (R119) -/

theorem laneAt_chi (A : Lanes) (x y : Nat) :
    laneAt (chi A) x y = laneAt A x y ^^^ (~~~laneAt A (x + 1) y &&& laneAt A (x + 2) y) := by
  have neighbour (k : Nat) : laneAt A (x % 5 + 5 * (y % 5) + k) ((x % 5 + 5 * (y % 5)) / 5) = laneAt A (x + k) y :=
    laneAt_congr A (by omega) (by omega)
  rw [chi, laneAt_tabulate]
  simp only [neighbour]
  exact congrArg (· ^^^ _) (neighbour 0)

/-- A state of equal lanes is fixed, since `~T & T = 0`. -/
theorem chi_replicate (a : Lane) : chi (Vector.replicate 25 a) = Vector.replicate 25 a := by
  apply lanes_ext
  intro x y
  simp [laneAt_chi]

/-! ### The round constants (R120, R121) -/

/-- One step of R121's register: doubling, with bit 8 cleared by the XOR with `0x171`. -/
def shiftRegisterStep (R : Nat) : Nat := if 256 ≤ 2 * R then (2 * R) ^^^ 0x171 else 2 * R

/-- R121's `rc(t)`. -/
def shiftRegisterBit (t : Nat) : Bool := if t % 255 = 0 then true else (shiftRegisterStep^[t % 255] 1) % 2 == 1

/-- The positions R121 sets in `RC[r]`. -/
def shiftRegisterPositions (r : Nat) : List Nat :=
  ((List.range 7).filter fun j => shiftRegisterBit (j + 7 * r)).map fun j => 2 ^ j - 1

theorem getLsbD_foldl_or_one_shiftLeft (positions : List Nat) (v : Lane) {k : Nat} (hk : k < 64) :
    (positions.foldl (fun v p => v ||| 1#64 <<< p) v).getLsbD k = (v.getLsbD k || positions.any (k == ·)) := by
  induction positions generalizing v with
  | nil => simp
  | cons p ps ih =>
    have hbit : (1#64 <<< p).getLsbD k = (k == p) := by
      rw [← BitVec.twoPow_eq, BitVec.getLsbD_twoPow, Bool.eq_iff_iff]
      simp only [Bool.and_eq_true, decide_eq_true_iff, beq_iff_eq]
      omega
    rw [List.foldl_cons, ih, BitVec.getLsbD_or, hbit, Bool.or_assoc, List.any_cons]

theorem getLsbD_laneWithBits (positions : List Nat) {k : Nat} (hk : k < 64) :
    (laneWithBits positions).getLsbD k = positions.any (k == ·) := by
  rw [laneWithBits, getLsbD_foldl_or_one_shiftLeft positions 0 hk, BitVec.ofNat_eq_ofNat, BitVec.getLsbD_zero,
    Bool.false_or]

/-- The 24 entries of R120 compared with the register's run. -/
theorem roundConstant_eq_laneWithBits (r : Fin 24) : roundConstant[r] = laneWithBits (shiftRegisterPositions r.val) := by
  revert r; decide +kernel

theorem getLsbD_roundConstant (r : Fin 24) {k : Nat} (hk : k < 64) : (roundConstant[r]).getLsbD k =
    (List.range 7).any fun j => k == 2 ^ j - 1 && shiftRegisterBit (j + 7 * r.val) := by
  rw [roundConstant_eq_laneWithBits, getLsbD_laneWithBits _ hk, shiftRegisterPositions, List.any_map, List.any_filter]
  simp only [Function.comp_apply, Bool.and_comm]

/-! ### `IOTA` (R122) -/

theorem iota_get_zero (A : Lanes) (r : Fin 24) : (iota r A)[0] = A[0] ^^^ roundConstant[r] :=
  Vector.getElem_set_self _

theorem iota_get_of_ne_zero (A : Lanes) (r : Fin 24) {i : Fin 25} (h : i.val ≠ 0) : (iota r A)[i] = A[i] :=
  Vector.getElem_set_ne _ _ h.symm

theorem iota_iota (A : Lanes) (r : Fin 24) : iota r (iota r A) = A := by
  simp [iota]

end Sys2Proof.Machine
end

section
/-! The statements on the step mappings of the Permutation Engine (41_permutation.md). -/

open Sys2Proof Sys2Proof.Machine

/-- Settles O10: the two cases of the definition, and every bit through the library's rotation. -/
theorem rotl64MovesEveryBit : Obligations.Rotl64MovesEveryBit := by
  intro a n hn
  have hlt : n < 64 := by omega
  exact ⟨fun h => h ▸ rotl64_zero_right a, rotl64_of_pos a, fun _ => getLsbD_rotl64_add_mod a hlt, rotl64_zero hlt,
    rotl64_allOnes hlt⟩

/-- Settles O11: `THETA` in coordinates, where the parities of the zero state are zero. -/
theorem thetaMixesColumnParities : Obligations.ThetaMixesColumnParities :=
  ⟨fun A x y _ _ => laneAt_theta A x y, theta_replicate_zero⟩

/-- Settles O12: a table of 25 numbers, compared with the 24 steps of the orbit. -/
theorem rhoOffsetsFollowTheOrbit : Obligations.RhoOffsetsFollowTheOrbit :=
  ⟨by decide, by decide, rfl⟩

/-- Settles O13: lane by lane `RHO` is a rotation by less than 64, and by 0 in lane (0,0). -/
theorem rhoRotatesEachLane : Obligations.RhoRotatesEachLane := by
  refine fun A => ⟨fun i k hk => ?_, ?_⟩
  · rw [rho_get, getLsbD_rotl64_add_mod _ (rhoOffset_lt i) hk]
  · exact (rho_get A 0).trans (rotl64_zero_right _)

/-- Settles O14: `PI` reads its lanes through `piSource`, so its order is the length of that map's one cycle. -/
theorem piMovesEachLane : Obligations.PiMovesEachLane := by
  refine ⟨fun A x y hx hy => ?_, fun A => ⟨pi_get A 0, pi_iterate_24 A⟩, fun k h0 h24 => ⟨laneLabels, fun h => ?_⟩⟩
  · rw [laneAt_pi]
    exact laneAt_congr A (by omega) rfl
  · have hlabel : laneLabels[piSource^[k] 1] = laneLabels[(1 : Fin 25)] := by rw [← pi_iterate_get, h]
    exact piSource_iterate_one_ne h0 h24 (laneLabels_injective hlabel)

/-- Settles O15: `CHI` in coordinates, read bit by bit. -/
theorem chiCombinesEachRow : Obligations.ChiCombinesEachRow := by
  refine ⟨fun A x y k _ _ hk => ?_, chi_replicate 0, chi_replicate _⟩
  simp [laneAt_chi, hk]

/-- Settles O16: each entry is the lane whose set bits stand where the register says, and such a lane is read bit by bit. -/
theorem roundConstantsFollowTheShiftRegister : Obligations.RoundConstantsFollowTheShiftRegister :=
  fun r k => getLsbD_roundConstant r k.isLt

/-- Settles O17: `IOTA` writes lane (0,0) alone, and XORs it twice with the same constant. -/
theorem iotaChangesOnlyLaneZero : Obligations.IotaChangesOnlyLaneZero :=
  fun A r => ⟨iota_get_zero A r, fun _ => iota_get_of_ne_zero A r, iota_iota A r⟩

end

section
/-! Block absorption, block extraction and padding (42_block_ops.md R140 to R153): the state each operation leaves, written
out once, and the bytes and bits of the blocks they absorb or fill. -/

namespace Sys2Proof.Machine

/-! ### Absorption (R140, R142) -/

theorem bytesOfLanes_xorBlock_get (n : Nat) (block : List Byte) (A : Lanes) (j : Fin 200) :
    (bytesOfLanes (xorBlock n block A))[j] =
      if j.val < n then (bytesOfLanes A)[j] ^^^ block.getD j.val 0 else (bytesOfLanes A)[j] := by
  rw [xorBlock, bytesOfLanes_lanesOfBytes, Fin.getElem_fin, tabulate_get, Fin.getElem_fin, bytesOfLanes_get]

theorem absorbBlock_eq (block : List Byte) (s : State) :
    absorbBlock block s = { s with A := permute (xorBlock (blockBytes s) block s.A) } := rfl

theorem absorbQueue_eq (s : State) : absorbQueue s =
    { s with A := (absorbBlock (readQueue 0 (blockBytes s) s.Q) s).A, bitsInQueue := 0 } := rfl

/-- The first `n` entries of a table are those whose index is below `n`. -/
theorem take_ofFn_eq_filterMap {α : Type} {m : Nat} (n : Nat) (f : Fin m → α) :
    (List.ofFn f).take n = (List.finRange m).filterMap fun j => if j.val < n then some (f j) else none := by
  induction m generalizing n with
  | zero => simp
  | succ m ih =>
    cases n with
    | zero => simp
    | succ n => simp [List.ofFn_succ, List.finRange_succ, List.filterMap_map, ih]

/-- The queued block lists the queue bytes below its length in order. -/
theorem readQueue_zero_eq_filterMap (n : Nat) (Q : Bytes200) :
    readQueue 0 n Q = (List.finRange 200).filterMap fun j => if j.val < n then some Q[j] else none := by
  have hlist : Q.toList = List.ofFn fun j : Fin 200 => Q[j] := by
    apply List.ext_getElem
    · rw [Vector.length_toList, List.length_ofFn]
    · intro j _ _
      rw [Vector.getElem_toList, List.getElem_ofFn, Fin.getElem_fin]
  rw [readQueue, List.drop_zero, hlist, take_ofFn_eq_filterMap]

/-! ### Extraction (R144, R145) -/

@[simp] theorem extract_length (n : Nat) (A : Lanes) : (extract n A).length = min n 200 := by
  simp [extract]

theorem extract_getElem? {n : Nat} (A : Lanes) {j : Fin 200} (h : j.val < n) :
    (extract n A)[j.val]? = some (bytesOfLanes A)[j] := by
  rw [extract, List.getElem?_take_of_lt h]
  simp

theorem extractToQueue_eq (s : State) :
    extractToQueue s = { s with Q := (extractToQueue s).Q, bitsForSqueezing := s.rate } := by
  simp [extractToQueue, State.setQueue, State.setBitsForSqueezing]

/-- The bytes of the block come from the state, those above it stay. -/
theorem extractToQueue_Q_get (s : State) (j : Fin 200) :
    (extractToQueue s).Q[j] = if j.val < s.rate.toNat / 8 then (bytesOfLanes s.A)[j] else s.Q[j] := by
  have hblock : (0 ≤ j.val ∧ j.val < 0 + (extract (blockBytes s) s.A).length) ↔ j.val < s.rate.toNat / 8 := by
    rw [extract_length, blockBytes]
    omega
  rw [extractToQueue, State.setBitsForSqueezing_Q, State.setQueue_Q, Fin.getElem_fin, writeQueue_get,
    if_congr hblock rfl rfl]
  split
  next h => rw [Nat.sub_zero, List.getD_eq_getElem?_getD, blockBytes, extract_getElem? s.A h, Option.getD_some]
  next => rfl

/-! ### Padding (R150 to R153) -/

theorem qbit_zeroQueue {b : Nat} (h : b < 1600) : qbit zeroQueue b = false := by
  rw [qbit_of_lt _ _ h, zeroQueue_get, BitVec.ofNat_eq_ofNat, BitVec.getLsbD_zero]

/-- Within the block the message bits stay, the two pad bits are set, and the bits between them are clear (R151). -/
theorem qbit_padQueue {p rate b : Nat} (Q : Bytes200) (hrate : rate ≤ 1600) (hp : p + 1 < rate) (hb : b < rate) :
    qbit (padQueue p rate Q) b = if b < p then qbit Q b else b == p || b == rate - 1 := by
  have hb' : b < 1600 := by omega
  rw [padQueue, qbit_setQbit _ _ _ hb', qbit_clearQbits _ _ _ _ hb', qbit_setQbit _ _ _ hb']
  obtain hmsg | rfl | hbetween | rfl : b < p ∨ b = p ∨ (p + 1 ≤ b ∧ b < rate - 1) ∨ b = rate - 1 := by omega
  · have hnp : b ≠ p := by omega
    have hkept : ¬p + 1 ≤ b := by omega
    have hnl : b ≠ rate - 1 := by omega
    simp [hmsg, hnp, hkept, hnl]
  · simp
  · have hnp : b ≠ p := by omega
    have hnmsg : ¬b < p := by omega
    have hnl : b ≠ rate - 1 := by omega
    simp [hbetween, hnmsg, hnp, hnl]
  · have hnmsg : ¬rate - 1 < p := by omega
    simp [hnmsg]

theorem padAndSwitch_of_lt {s : State} (h : s.bitsInQueue.toNat + 1 < s.rate.toNat) :
    padAndSwitch s = switchToSqueeze (padGeneral s) := by
  rw [padAndSwitch, if_pos h]

theorem padAndSwitch_of_le {s : State} (h : s.rate.toNat ≤ s.bitsInQueue.toNat + 1) :
    padAndSwitch s = switchToSqueeze (padSpecial s) := by
  rw [padAndSwitch, if_neg (Nat.not_lt.mpr h)]

theorem padAndSwitch_A (s : State) : (padAndSwitch s).A =
    (if s.bitsInQueue.toNat + 1 < s.rate.toNat then padGeneral s else padSpecial s).A := rfl

/-- Either padding ends with an absorption, after which the common tail follows. -/
theorem padAndSwitch_eq_switchToSqueeze_absorbQueue (s : State) :
    ∃ u : State, padAndSwitch s = switchToSqueeze (absorbQueue u) ∧ u.rate = s.rate := by
  obtain hlt | hle := Nat.lt_or_ge (s.bitsInQueue.toNat + 1) s.rate.toNat
  · exact ⟨_, padAndSwitch_of_lt hlt, rfl⟩
  · exact ⟨_, padAndSwitch_of_le hle, rfl⟩

@[simp] theorem switchToSqueeze_bitsForSqueezing (s : State) : (switchToSqueeze s).bitsForSqueezing = s.rate :=
  extractToQueue_bitsForSqueezing _

theorem switchToSqueeze_Q_get (s : State) (j : Fin 200) :
    (switchToSqueeze s).Q[j] = if j.val < s.rate.toNat / 8 then (bytesOfLanes s.A)[j] else 0 := by
  have hzero : zeroQueue[j] = 0 := zeroQueue_get _ _
  exact (extractToQueue_Q_get (s.setQueue zeroQueue) j).trans (by rw [State.setQueue_Q, hzero]; rfl)

end Sys2Proof.Machine
end

section
/-! The statements on the block operations and padding (42_block_ops.md). -/

open Sys2Proof Sys2Proof.Machine

/-- Settles O22: the lanes permuted are those of `xorBlock`, whose bytes are known one by one. -/
theorem absorbBlockXorsThenPermutes : Obligations.AbsorbBlockXorsThenPermutes := fun s block _ =>
  ⟨xorBlock (s.rate.toNat / 8) block s.A, absorbBlock_eq block s, bytesOfLanes_xorBlock_get _ block s.A⟩

/-- Settles O24: the block read from the queue is the list of its leading bytes. -/
theorem absorbQueueAbsorbsTheQueuedBlock : Obligations.AbsorbQueueAbsorbsTheQueuedBlock := by
  intro s
  rw [absorbQueue_eq, readQueue_zero_eq_filterMap, blockBytes]

/-- Settles O25: the leading bytes of the byte view, which has 200. -/
theorem extractReadsTheLeadingBytes : Obligations.ExtractReadsTheLeadingBytes := fun A n hn =>
  ⟨(extract_length n A).trans (Nat.min_eq_left hn), fun _ hj => extract_getElem? A hj⟩

/-- Settles O26: only the queue and `bits_for_squeezing` are written, and the queue is known byte by byte. -/
theorem extractToQueueRefillsTheBlock : Obligations.ExtractToQueueRefillsTheBlock := fun s =>
  ⟨(extractToQueue s).Q, extractToQueue_eq s, extractToQueue_Q_get s⟩

/-- Settles O27: the block absorbed is `padQueue` of the queue, whose bits are known position by position. -/
theorem generalPaddingSetsTwoBits : Obligations.GeneralPaddingSetsTwoBits := fun s _ hrate hp =>
  ⟨padQueue s.bitsInQueue.toNat s.rate.toNat s.Q, padAndSwitch_of_lt hp, fun _ => qbit_padQueue s.Q hrate hp⟩

/-- Settles O28: setting the last bit of the block fills the queue, and in the zero queue it is the only bit set. -/
theorem specialPaddingAbsorbsTwoBlocks : Obligations.SpecialPaddingAbsorbsTwoBlocks := by
  intro s _ _ hrate hp
  refine ⟨setQbit (s.rate.toNat - 1) s.Q, setQbit (s.rate.toNat - 1) zeroQueue, padAndSwitch_of_le hp.ge,
    fun b hb => ?_, fun b hb => ?_⟩
  · exact qbit_setQbit _ _ _ (by omega)
  · rw [qbit_setQbit _ _ _ hb, qbit_zeroQueue hb, Bool.false_or]
    rfl

/-- Settles O29: either padding ends with an absorption, which empties the queue, and the common tail fills it from the
lanes that absorption left. -/
theorem padAndSwitchLeavesAFreshBlock : Obligations.PadAndSwitchLeavesAFreshBlock := by
  intro s t
  obtain ⟨u, hpad, hrate⟩ := padAndSwitch_eq_switchToSqueeze_absorbQueue s
  have ht : t = switchToSqueeze (absorbQueue u) := hpad
  refine ⟨?_, ?_, padAndSwitch_squeezing s, fun j => ?_, padAndSwitch_A s⟩
  · rw [ht, switchToSqueeze_bitsInQueue, absorbQueue_bitsInQueue]
  · rw [ht, switchToSqueeze_bitsForSqueezing, absorbQueue_rate, hrate]
  · rw [ht, switchToSqueeze_Q_get, switchToSqueeze_A, absorbQueue_rate, hrate]

end

section
/-! The sponge commands (43_sponge_commands.md): which parameters `CONFIG` accepts, the state each command leaves in each of
its cases, and an `ABSORB` presented by its word. -/

namespace Sys2Proof

/-! ### The word of an `ABSORB` (30_encoding.md R84, R88) -/

theorem fieldLen_encode_absorb (n : BitVec 60) (data : List Byte) : fieldLen (encode (.absorb n data)).1 = n := by
  rw [fieldLen, encode, absorbMatch]
  ext i hi
  interval_cases i <;> simp

theorem payloadLen_encode_absorb (n : BitVec 60) (data : List Byte) :
    payloadLen (encode (.absorb n data)).1 = ceil8 n.toNat := by
  have habsorb : rowMatches absorbMask absorbMatch (encode (.absorb n data)).1 = true := Laws.EncodesItsRow.absorb n data
  rw [payloadLen, if_pos habsorb, fieldLen_encode_absorb]

theorem decodeWord_encode_absorb (n : BitVec 60) (data payload : List Byte) :
    decodeWord (encode (.absorb n data)).1 payload = some (.absorb n payload) := by
  have habsorb : rowMatches absorbMask absorbMatch (encode (.absorb n data)).1 = true := Laws.EncodesItsRow.absorb n data
  have hconfig : ¬rowMatches configMask configMatch (encode (.absorb n data)).1 = true := by
    simp [(rowMatches_absorb_iff _).mp habsorb]
  rw [decodeWord, if_neg hconfig, if_pos habsorb, fieldLen_encode_absorb]

/-- The decoder takes the counted bytes of the payload and leaves what follows them on `DIN`. -/
theorem decode_encode_absorb {n : BitVec 60} {data : List Byte} (h : ceil8 n.toNat ≤ data.length) (din : List Byte) :
    decode (encode (.absorb n data)).1 ((encode (.absorb n data)).2 ++ din) =
      .command (.absorb n (data.take (ceil8 n.toNat))) din := by
  have hlen : (encode (.absorb n data)).2.length = ceil8 n.toNat := List.length_take_of_le h
  simp only [decode, decodeWord_encode_absorb, payloadLen_encode_absorb, List.length_append, hlen,
    Nat.le_add_right, if_true, List.take_left' hlen, List.drop_left' hlen]
  rfl

end Sys2Proof

namespace Sys2Proof.Machine

theorem step_of_decode_eq_command {s : State} {w : CmdWord} {rest : List HostEvent} {i : Instr} {din : List Byte}
    (hhost : s.host = .word w :: rest) (hdec : decode w s.din = .command i din) :
    step s = exec i { s with host := rest, din := din } := by
  simp only [step, fetch, hhost, hdec]

/-! ### `CONFIG` and `RESET` (R160, R161, R185) -/

theorem configOk_iff (r c : BitVec 16) :
    configOk r c = true ↔ r.toNat + c.toNat = 1600 ∧ r.toNat % 64 = 0 ∧ r.toNat ≠ 0 := by
  simp [configOk, and_assoc]

theorem exec_config_of_not_configOk {r c : BitVec 16} (h : configOk r c = false) (s : State) :
    exec (.config r c) s = .next (fail .invalidConfig s) := by
  rw [exec, execConfig, if_neg (ne_true_of_eq_false h)]

theorem exec_reset_of_not_configured {s : State} (h : s.configured = false) :
    exec .reset s = .next (fail .invalidState s) := by
  rw [exec, execReset, if_neg (ne_true_of_eq_false h)]

/-- The parameters of a configured engine, read back as operands, are parameters `CONFIG` accepts. -/
theorem configOk_parameters {s : State} (h : InvConfigured s) :
    configOk (s.rate.setWidth 16) (s.capacity.setWidth 16) = true := by
  have hrate : (s.rate.setWidth 16).toNat = s.rate.toNat := BitVec.toNat_setWidth_of_le (by decide)
  have hcap : (s.capacity.setWidth 16).toNat = s.capacity.toNat := BitVec.toNat_setWidth_of_le (by decide)
  rw [configOk_iff, hrate, hcap]
  exact ⟨h.sum, h.lanes, Nat.ne_zero_of_lt h.positive⟩

theorem setWidth_setWidth_cursor (v : Cursor) : (v.setWidth 16).setWidth 11 = v := by
  rw [BitVec.setWidth_setWidth_of_le v (by decide), BitVec.setWidth_eq]

/-- `RESET` keeps `configured`, so a second one meets the same case, and finds nothing left to change. -/
theorem exec_reset_sameEngine {s t u : State} (hst : exec .reset s = .next t) (htu : exec .reset t = .next u) :
    SameEngine t u := by
  obtain ⟨hc, rfl⟩ | ⟨hc, rfl⟩ := execReset_cases hst
  · cases htu.symm.trans (exec_reset_of_configured hc)
    exact ⟨rfl, rfl, rfl, rfl, rfl, rfl, rfl, rfl⟩
  · cases htu.symm.trans (exec_reset_of_not_configured hc)
    exact ⟨rfl, rfl, rfl, rfl, rfl, rfl, rfl, rfl⟩

/-! ### `ABSORB` (R166) -/

theorem absorbAllowed_eq_false_iff (s : State) :
    absorbAllowed s = false ↔ s.configured = false ∨ s.bitsInQueue.toNat % 8 ≠ 0 ∨ s.squeezing = true := by
  simp only [absorbAllowed, Bool.and_eq_false_iff, Bool.not_eq_false', beq_eq_false_iff_ne, or_assoc]

theorem exec_absorb_of_not_allowed {s : State} {n : BitVec 60} {data : List Byte} (hlen : ceil8 n.toNat ≤ data.length)
    (h : absorbAllowed s = false) : exec (.absorb n data) s = .next (fail .invalidState s) := by
  rw [exec, execAbsorb, if_neg (Nat.not_lt.mpr hlen), if_neg (ne_true_of_eq_false h)]

/-! ### `SQUEEZE` (R175, R176) -/

theorem exec_squeeze_of_configured {s : State} (h : s.configured = true) (n : BitVec 60) :
    exec (.squeeze n) s = .next (complete .ok (squeezeLoop n.toNat n.toNat (enterSqueezing s)).1
      (squeezeLoop n.toNat n.toNat (enterSqueezing s)).2) := by
  rw [exec, execSqueeze, if_pos h]

theorem exec_squeeze_of_not_configured {s : State} (h : s.configured = false) (n : BitVec 60) :
    exec (.squeeze n) s = .next (fail .invalidState s) := by
  rw [exec, execSqueeze, if_neg (ne_true_of_eq_false h)]

theorem enterSqueezing_of_squeezing {s : State} (h : s.squeezing = true) : enterSqueezing s = s := if_pos h

theorem enterSqueezing_of_absorbing {s : State} (h : s.squeezing = false) : enterSqueezing s = padAndSwitch s :=
  if_neg (ne_true_of_eq_false h)

/-- A `SQUEEZE` in the absorbing phase is the one that would run after the padding. -/
theorem exec_squeeze_padAndSwitch {s : State} (hc : s.configured = true) (hsq : s.squeezing = false) (n : BitVec 60) :
    exec (.squeeze n) s = exec (.squeeze n) (padAndSwitch s) := by
  rw [exec_squeeze_of_configured hc, exec_squeeze_of_configured ((padAndSwitch_configured s).trans hc),
    enterSqueezing_of_absorbing hsq, enterSqueezing_of_squeezing (padAndSwitch_squeezing s)]

theorem exec_squeeze_answers {s : State} (h : s.configured = true) (n : BitVec 60) :
    ∃ t out, exec (.squeeze n) s = .next t ∧ Answers s t ⟨.ok, out⟩ := by
  obtain ⟨-, -, -, -, -, hcp, -, -, hresp⟩ := squeezeLoop_keeps n.toNat n.toNat (enterSqueezing s)
  refine ⟨_, (squeezeLoop n.toNat n.toNat (enterSqueezing s)).1, exec_squeeze_of_configured h n, ?_, ?_⟩
  · rw [complete_cp, hcp, enterSqueezing_cp]
  · rw [complete_responses, hresp, enterSqueezing_responses]

/-- With nothing to return, what is left of `SQUEEZE` is the entry into the squeezing phase. -/
theorem exec_squeeze_zero {s : State} (h : s.configured = true) :
    exec (.squeeze 0) s = .next (complete .ok [] (enterSqueezing s)) := by
  rw [exec_squeeze_of_configured h, show (0 : BitVec 60).toNat = 0 from rfl, squeezeLoop_done]

end Sys2Proof.Machine
end

section
/-! The statements on the sponge commands (43_sponge_commands.md). -/

open Sys2Proof Sys2Proof.Machine

/-- Settles O31: the three conditions make the rate a positive multiple of 64 of at most 1600. -/
theorem legalPairsAreTwentyFive : Obligations.LegalPairsAreTwentyFive := by
  intro r c
  refine ⟨configOk_iff r c, (configOk_iff r c).trans ⟨?_, ?_⟩⟩
  · rintro ⟨hsum, hlanes, hpos⟩
    exact ⟨r.toNat / 64, by omega⟩
  · rintro ⟨k, hk⟩
    omega

/-- Settles O32: `RESET` leaves `clearSession` of the state, and so does a `CONFIG` with the parameters it has. -/
theorem resetResult : Obligations.ResetResult := by
  refine ⟨fun s => exec_reset_of_configured, fun s => exec_reset_of_not_configured,
    fun s t u => exec_reset_sameEngine, fun s hc hinv => ?_⟩
  rw [exec_reset_of_configured hc, exec_config_of_configOk (configOk_parameters (hinv.configured hc)),
    setWidth_setWidth_cursor, setWidth_setWidth_cursor, ← hc]
  rfl

/-- Settles O39: the entry into the squeezing phase stands before the loop, so it is made whatever `OUTLEN` is, and only the
test of `configured` stands before it. -/
theorem squeezePadsLazily : Obligations.SqueezePadsLazily := by
  refine fun s n => ⟨fun hc => exec_squeeze_of_not_configured hc n, fun hc hsq => exec_squeeze_padAndSwitch hc hsq n,
    fun hc => exec_squeeze_answers hc n, ?_⟩
  rintro hc - rfl
  exact ⟨_, exec_squeeze_zero hc, enterSqueezing_squeezing s, by simp [Answers]⟩

/-- Settles O30: whether the parameters are legal decides between the two answers. -/
theorem configResult : Obligations.ConfigResult := fun s _ _ =>
  ⟨fun h => exec_config_of_configOk h s, fun h => exec_config_of_not_configOk h s⟩

/-- Settles O34: the three conditions are the ways `absorbAllowed` fails, and the payload is consumed before it is tested. -/
theorem absorbPreconditions : Obligations.AbsorbPreconditions := by
  intro s n data hlen hfail
  rw [← absorbAllowed_eq_false_iff] at hfail
  refine ⟨exec_absorb_of_not_allowed hlen hfail, fun rest din hhost hdin => ?_⟩
  have hdec := decode_encode_absorb hlen din
  rw [← hdin] at hdec
  rw [step_of_decode_eq_command hhost hdec]
  exact exec_absorb_of_not_allowed (List.length_take_of_le hlen).ge hfail

end

section
/-! Statuses (60_exceptions.md R200 to R203): the status a command completes with, as a function of the command and the
engine before it, and what a word takes from `DIN` when it is answered. -/

namespace Sys2Proof

/-! ### What a word takes from `DIN` (30_encoding.md R88) -/

theorem payloadLen_eq (w : CmdWord) : payloadLen w = if fieldOpc w = 2 then ceil8 (fieldLen w).toNat else 0 := by
  simp only [payloadLen, rowMatches_absorb_iff]

theorem payloadLen_of_decode_reserved {w : CmdWord} {din : List Byte} (h : decode w din = .reserved) :
    payloadLen w = 0 := by
  obtain ⟨-, habsorb, -⟩ := (decodeWord_eq_none_iff w []).mp ((Machine.decode_reserved_iff w din).mp h)
  exact if_neg habsorb

theorem drop_of_decode_command {w : CmdWord} {din din' : List Byte} {i : Instr} (h : decode w din = .command i din') :
    din' = din.drop (payloadLen w) := by
  unfold decode at h
  split at h
  · cases h
  · split at h <;> cases h
    rfl

end Sys2Proof

namespace Sys2Proof.Machine

/-! ### The status of a command (R200, R203) -/

/-- The status `i` completes with on the engine `s`, if it completes: tied to `exec` by `exec_commandStatus`. -/
def commandStatus (i : Instr) (s : State) : Status :=
  match i with
  | .config r c => if configOk r c = true then .ok else .invalidConfig
  | .absorb _ _ => if absorbAllowed s = true then .ok else .invalidState
  | .squeeze _ => if s.configured = true then .ok else .invalidState
  | .reset => if s.configured = true then .ok else .invalidState
  | .rdsr idx => if statusRegister idx s = none then .invalidCommand else .ok

/-- A command that completes is answered once: with `OK` and its payload, or by `fail` on the state it found. -/
theorem exec_commandStatus {i : Instr} {s t : State} (h : exec i s = .next t) :
    (commandStatus i s = .ok ∧ ∃ out, Answers s t ⟨.ok, out⟩) ∨
      (commandStatus i s ≠ .ok ∧ t = fail (commandStatus i s) s) := by
  cases i with
  | config r c =>
    obtain ⟨hok, rfl⟩ | ⟨hok, rfl⟩ := execConfig_cases h
    · exact .inl ⟨if_pos hok, [], rfl, rfl⟩
    · exact .inr (by simp [commandStatus, hok])
  | absorb n d =>
    obtain ⟨-, ⟨hok, rfl⟩ | ⟨hok, rfl⟩⟩ := execAbsorb_cases h
    · obtain ⟨-, -, -, -, -, hcp, -, -, hresp⟩ := absorbLoop_keeps n.toNat n.toNat d s
      exact .inl ⟨if_pos hok, [], by simp [Answers, hcp, hresp]⟩
    · exact .inr (by simp [commandStatus, hok])
  | squeeze n =>
    obtain ⟨hok, -⟩ | ⟨hok, rfl⟩ := execSqueeze_cases h
    · obtain ⟨t', out, hexec, hans⟩ := exec_squeeze_answers hok n
      cases h.symm.trans hexec
      exact .inl ⟨if_pos hok, out, hans⟩
    · exact .inr (by simp [commandStatus, hok])
  | reset =>
    obtain ⟨hok, rfl⟩ | ⟨hok, rfl⟩ := execReset_cases h
    · exact .inl ⟨if_pos hok, [], rfl, rfl⟩
    · exact .inr (by simp [commandStatus, hok])
  | rdsr idx =>
    obtain ⟨v, hsome, rfl⟩ | ⟨hnone, rfl⟩ := execRdsr_cases h
    · exact .inl ⟨by simp [commandStatus, hsome], bytesLE v, rfl, rfl⟩
    · exact .inr (by simp [commandStatus, hnone])

theorem exec_answers_commandStatus {i : Instr} {s t : State} (h : exec i s = .next t) :
    ∃ out, Answers s t ⟨commandStatus i s, out⟩ := by
  obtain ⟨hok, hans⟩ | ⟨-, rfl⟩ := exec_commandStatus h
  · rwa [hok]
  · exact ⟨[], rfl, rfl⟩

/-! ### The causes of each status (R200) -/

/-- The reserved indices of R34 are the only ones without a register. -/
theorem statusRegister_eq_none_iff (idx : BitVec 8) (s : State) :
    statusRegister idx s = none ↔ 5 ≤ idx.toNat ∧ idx.toNat ≤ 31 ∨ 57 ≤ idx.toNat := by
  refine ⟨fun hnone => ?_, statusRegister_reserved s⟩
  by_contra hmapped
  obtain hlane | hctrl : (32 ≤ idx.toNat ∧ idx.toNat < 57) ∨ idx.toNat < 5 := by omega
  · cases hnone.symm.trans (statusRegister_lane s ⟨idx.toNat - 32, by omega⟩ (by simp; omega))
  · obtain rfl | rfl | rfl | rfl | rfl : idx = 0 ∨ idx = 1 ∨ idx = 2 ∨ idx = 3 ∨ idx = 4 := by bv_omega
    all_goals cases hnone

theorem commandStatus_eq_invalidState_iff (i : Instr) (s : State) : commandStatus i s = .invalidState ↔
    (∃ n d, i = .absorb n d ∧ (s.squeezing = true ∨ s.bitsInQueue.toNat % 8 ≠ 0 ∨ s.configured = false)) ∨
      ((∃ n, i = .squeeze n) ∨ i = .reset) ∧ s.configured = false := by
  cases i with
  | absorb n d =>
    have hstatus : commandStatus (.absorb n d) s = .invalidState ↔ absorbAllowed s = false := by simp [commandStatus]
    rw [hstatus, absorbAllowed_eq_false_iff]
    simp [or_comm, or_left_comm]
  | config r c => simp [commandStatus, ite_eq_iff]
  | squeeze n => simp [commandStatus]
  | reset => simp [commandStatus]
  | rdsr idx => simp [commandStatus, ite_eq_iff]

theorem commandStatus_ne_invalidLength (i : Instr) (s : State) : commandStatus i s ≠ .invalidLength := by
  cases i <;> simp [commandStatus, ite_eq_iff]

theorem commandStatus_eq_invalidConfig_iff (i : Instr) (s : State) : commandStatus i s = .invalidConfig ↔
    ∃ r c, i = .config r c ∧ (r.toNat + c.toNat ≠ 1600 ∨ r.toNat % 64 ≠ 0 ∨ r.toNat = 0) := by
  cases i with
  | config r c => simp [commandStatus, configOk_iff, not_and_or, -not_and]
  | absorb n d => simp [commandStatus, ite_eq_iff]
  | squeeze n => simp [commandStatus, ite_eq_iff]
  | reset => simp [commandStatus, ite_eq_iff]
  | rdsr idx => simp [commandStatus, ite_eq_iff]

theorem commandStatus_eq_invalidCommand_iff (i : Instr) (s : State) : commandStatus i s = .invalidCommand ↔
    ∃ idx, i = .rdsr idx ∧ (5 ≤ idx.toNat ∧ idx.toNat ≤ 31 ∨ 57 ≤ idx.toNat) := by
  cases i with
  | rdsr idx => simp [commandStatus, statusRegister_eq_none_iff, -not_or, -not_and]
  | config r c => simp [commandStatus, ite_eq_iff]
  | absorb n d => simp [commandStatus, ite_eq_iff]
  | squeeze n => simp [commandStatus, ite_eq_iff]
  | reset => simp [commandStatus, ite_eq_iff]

/-! ### A word answered with an error (R203) -/

/-- A word that is answered with a status other than `OK` is answered by `fail`, on the state without the word and the
payload bytes that belong to it. -/
theorem step_eq_fail {s t : State} {w : CmdWord} {rest : List HostEvent} {r : Response}
    (hhost : s.host = .word w :: rest) (hstep : step s = .next t) (hresp : t.responses = s.responses ++ [r])
    (hr : r.status ≠ .ok) :
    t = fail r.status { s with host := rest, din := s.din.drop (payloadLen w) } ∧ r.payload = [] := by
  obtain rfl | ⟨rest', hhost', -⟩ | ⟨w', rest', hhost', hdec, rfl⟩ | ⟨w', rest', i, din, hhost', hdec, hexec⟩ :=
    step_cases hstep
  · simp at hresp
  · cases hhost.symm.trans hhost'
  · cases hhost.symm.trans hhost'
    obtain rfl : _ = r := by simpa using hresp
    simp [payloadLen_of_decode_reserved hdec]
  · cases hhost.symm.trans hhost'
    cases drop_of_decode_command hdec
    obtain ⟨-, out, -, hout⟩ | ⟨-, rfl⟩ := exec_commandStatus hexec
    · obtain rfl : _ = r := by simpa [hresp] using hout.symm
      exact absurd rfl hr
    · obtain rfl : _ = r := by simpa using hresp
      exact ⟨rfl, rfl⟩

end Sys2Proof.Machine
end

section
/-! The statements on statuses (60_exceptions.md). -/

open Sys2Proof Sys2Proof.Machine

/-- Settles O45: the word is answered by `fail`, which keeps the engine. -/
theorem failedCommandsChangeNothing : Obligations.FailedCommandsChangeNothing := by
  intro s t w rest r hhost hstep hresp hr
  obtain ⟨rfl, hpayload⟩ := step_eq_fail hhost hstep hresp hr
  rw [fail_din, payloadLen_eq]
  exact ⟨⟨rfl, rfl, rfl, rfl, rfl, rfl, rfl, rfl⟩, hpayload, rfl, rfl⟩

/-- Settles O46: a command completes with `commandStatus`, whose causes are the table's; a reserved word has no command and
is answered by the step. -/
theorem statusTable : Obligations.StatusTable := by
  refine ⟨⟨rfl, rfl, rfl, rfl, rfl⟩, fun s t i h => ?_, fun s w rest hhost hnone => ?_⟩
  · obtain ⟨out, hans⟩ := exec_answers_commandStatus h
    exact ⟨_, hans, commandStatus_eq_invalidState_iff i s, commandStatus_ne_invalidLength i s,
      commandStatus_eq_invalidConfig_iff i s, commandStatus_eq_invalidCommand_iff i s⟩
  · exact ⟨_, step_of_decodeWord_eq_none hhost hnone, rfl, rfl⟩

end

section
/-! Bit strings (20_memory.md R53, R54): the counted bits of a payload as a list, the bytes such a list packs into, and the
queue read as a payload. -/

namespace Sys2Proof.Machine

/-! ### The counted bits of a payload (R54) -/

/-- The first `n` bits of a payload; `messageBits` joins these lists. -/
def payloadBits (n : Nat) (data : List Byte) : List Bool := (List.range n).map (payloadBit data)

@[simp] theorem payloadBits_length (n : Nat) (data : List Byte) : (payloadBits n data).length = n := by
  simp [payloadBits]

@[simp] theorem payloadBits_zero (data : List Byte) : payloadBits 0 data = [] := rfl

theorem getD_payloadBits {n k : Nat} (data : List Byte) (h : k < n) :
    (payloadBits n data).getD k false = payloadBit data k := by
  simp [payloadBits, h]

theorem payloadBits_congr {n : Nat} {d d' : List Byte} (h : ∀ k < n, payloadBit d k = payloadBit d' k) :
    payloadBits n d = payloadBits n d' :=
  List.map_congr_left fun k hk => h k (List.mem_range.mp hk)

theorem payloadBit_drop (data : List Byte) (c k : Nat) : payloadBit (data.drop c) k = payloadBit data (8 * c + k) := by
  have hbyte : (8 * c + k) / 8 = c + k / 8 := by omega
  have hbit : (8 * c + k) % 8 = k % 8 := by omega
  simp [payloadBit, hbyte, hbit]

theorem payloadBits_take {n m : Nat} (data : List Byte) (h : m ≤ n) :
    (payloadBits n data).take m = payloadBits m data := by
  rw [payloadBits, ← List.map_take, List.take_range, Nat.min_eq_left h, payloadBits]

/-- After `c` whole bytes the bits go on in the payload without them. -/
theorem payloadBits_add (c m : Nat) (data : List Byte) :
    payloadBits (8 * c + m) data = payloadBits (8 * c) data ++ payloadBits m (data.drop c) := by
  simp [payloadBits, List.range_add, Function.comp_def, payloadBit_drop]

theorem payloadBits_drop {n : Nat} (data : List Byte) (c : Nat) (h : 8 * c ≤ n) :
    (payloadBits n data).drop (8 * c) = payloadBits (n - 8 * c) (data.drop c) := by
  obtain ⟨m, rfl⟩ := Nat.exists_eq_add_of_le h
  rw [payloadBits_add, List.drop_left' (payloadBits_length _ _), Nat.add_sub_cancel_left]

/-- Bits within the first of two payloads are its own. -/
theorem payloadBits_append_left {n : Nat} (d d' : List Byte) (h : n ≤ 8 * d.length) :
    payloadBits n (d ++ d') = payloadBits n d := by
  refine payloadBits_congr fun k hk => ?_
  have hlt : k / 8 < d.length := by omega
  simp [payloadBit, List.getElem?_append_left hlt]

/-- The bits of a payload of whole bytes, then those of the next one. -/
theorem payloadBits_append (d d' : List Byte) (n : Nat) :
    payloadBits (8 * d.length + n) (d ++ d') = payloadBits (8 * d.length) d ++ payloadBits n d' := by
  rw [payloadBits_add, payloadBits_append_left d d' le_rfl, List.drop_left]

/-- Up to 8 bits come from the first byte, which is 0 where the payload has none. -/
theorem payloadBits_first_byte {m : Nat} (data : List Byte) (c : Nat) (h : m ≤ 8) :
    payloadBits m (data.drop c) = payloadBits m [data.getD c 0] := by
  refine payloadBits_congr fun k hk => ?_
  have hbyte : k / 8 = 0 := by omega
  simp [payloadBit, hbyte]

/-! ### Bits to bytes (R53) -/

@[simp] theorem packBytes_length (M : List Bool) : (packBytes M).length = M.length / 8 := by
  simp [packBytes]

/-- Packing undoes `payloadBits` on the whole bytes among the counted bits. -/
theorem packBytes_payloadBits {n : Nat} {data : List Byte} (h : n / 8 ≤ data.length) :
    packBytes (payloadBits n data) = data.take (n / 8) := by
  apply List.ext_getElem
  · simp [h]
  intro j hj _
  rw [packBytes_length, payloadBits_length] at hj
  apply BitVec.eq_of_getLsbD_eq
  intro k hk
  have hbyte : (8 * j + k) / 8 = j := by omega
  have hbit : (8 * j + k) % 8 = k := by omega
  have hjd : j < data.length := by omega
  have hbits := getD_payloadBits (n := n) data (show 8 * j + k < n by omega)
  simp only [packBytes, List.getElem_map, List.getElem_range, BitVec.getLsbD_ofFnLE, hk, dite_true, hbits,
    List.getElem_take]
  simp [payloadBit, hbyte, hbit, hjd]

/-- Bytes are packed one from each eight bits, so a cut at whole bytes cuts the bytes. -/
theorem packBytes_take (M : List Bool) (c : Nat) (h : 8 * c ≤ M.length) :
    packBytes (M.take (8 * c)) = (packBytes M).take c := by
  apply List.ext_getElem
  · simp; omega
  intro j hj _
  have hlt : j < c := by simp at hj; omega
  simp only [packBytes, List.getElem_map, List.getElem_range, List.getElem_take]
  congr 1
  funext k
  have hk : 8 * j + k.val < 8 * c := by omega
  simp [hk]

theorem packBytes_drop (M : List Bool) (c : Nat) : packBytes (M.drop (8 * c)) = (packBytes M).drop c := by
  apply List.ext_getElem
  · simp; omega
  intro j _ _
  simp only [packBytes, List.getElem_map, List.getElem_range, List.getElem_drop]
  congr 1
  funext k
  simp [Nat.mul_add, Nat.add_assoc]

/-! ### The queue as a payload -/

/-- The bits queued, in order. -/
def queuedBits (s : State) : List Bool := payloadBits s.bitsInQueue.toNat s.Q.toList

theorem qbit_eq_payloadBit (Q : Bytes200) (p : Nat) : qbit Q p = payloadBit Q.toList p := rfl

@[simp] theorem queuedBits_length (s : State) : (queuedBits s).length = s.bitsInQueue.toNat := payloadBits_length _ _

theorem queuedBits_eq_nil {s : State} (h : s.bitsInQueue = 0) : queuedBits s = [] := by
  simp [queuedBits, h]

theorem getD_queuedBits {s : State} {p : Nat} (h : p < s.bitsInQueue.toNat) :
    (queuedBits s).getD p false = qbit s.Q p :=
  getD_payloadBits _ h

/-- Two engines with equally many bits queued have the same queued bits when their queue positions below agree. -/
theorem queuedBits_congr {s t : State} (hb : s.bitsInQueue = t.bitsInQueue)
    (h : ∀ p, p < s.bitsInQueue.toNat → qbit s.Q p = qbit t.Q p) : queuedBits s = queuedBits t := by
  rw [queuedBits, queuedBits, ← hb]
  exact payloadBits_congr h

theorem packBytes_payloadBits_queue (Q : Bytes200) {c : Nat} (h : c ≤ 200) :
    packBytes (payloadBits (8 * c) Q.toList) = readQueue 0 c Q := by
  have hc : 8 * c / 8 = c := by omega
  rw [packBytes_payloadBits (by simpa [hc] using h), hc, readQueue, List.drop_zero]

theorem writeQueue_toList (off : Nat) (bs : List Byte) (Q : Bytes200) (h : off + bs.length ≤ 200) :
    (writeQueue off bs Q).toList = Q.toList.take off ++ (bs ++ Q.toList.drop (off + bs.length)) := by
  apply List.ext_getElem
  · simp; omega
  intro j hj _
  have hj' : j < 200 := by simpa using hj
  rw [Vector.getElem_toList, writeQueue_get _ _ _ _ hj', List.getElem_append]
  obtain hlo | hmid | hhi : j < off ∨ (off ≤ j ∧ j - off < bs.length) ∨ off + bs.length ≤ j := by omega
  · have hn : ¬off ≤ j := by omega
    simp [hlo, hn, hj']
  · obtain ⟨hlo, hlt⟩ := hmid
    have hn : ¬j < off := by omega
    have hin : j < off + bs.length := by omega
    have hmin : min off 200 = off := by omega
    simp [hn, hlo, hin, hmin, hlt]
  · have hn : ¬j < off := by omega
    have hnm : ¬j < off + bs.length := by omega
    have hmin : min off 200 = off := by omega
    have hnb : ¬j - off < bs.length := by omega
    have hidx : off + bs.length + (j - off - bs.length) = j := by omega
    simp [hn, hnm, hmin, List.getElem_append, hnb, hidx]

/-- Writing bytes at a whole byte position appends their bits to those queued below it. -/
theorem payloadBits_writeQueue {off n : Nat} {bs : List Byte} (Q : Bytes200) (hin : off + bs.length ≤ 200)
    (hn : n ≤ 8 * bs.length) :
    payloadBits (8 * off + n) (writeQueue off bs Q).toList = payloadBits (8 * off) Q.toList ++ payloadBits n bs := by
  have hlen : (Q.toList.take off).length = off := by simp; omega
  have hoff := payloadBits_append (Q.toList.take off) (bs ++ Q.toList.drop (off + bs.length)) n
  have htake : payloadBits (8 * off) (Q.toList.take off) = payloadBits (8 * off) Q.toList := by
    rw [← payloadBits_append_left _ (Q.toList.drop off) (by omega), List.take_append_drop]
  rw [hlen, payloadBits_append_left bs _ hn, htake] at hoff
  rw [writeQueue_toList _ _ _ hin, hoff]

/-! ### The fragment (R171) -/

theorem fragment_getLsbD {m k : Nat} (b : Byte) (hm : m < 8) (hk : k < 8) :
    (fragment m b).getLsbD k = (b.getLsbD k && decide (k < m)) := by
  have hmask : (1#8 <<< m - 1#8).getLsbD k = decide (k < m) := by
    interval_cases m <;> interval_cases k <;> rfl
  rw [fragment, BitVec.getLsbD_and, hmask]

theorem payloadBits_fragment {m : Nat} (b : Byte) (hm : m < 8) : payloadBits m [fragment m b] = payloadBits m [b] := by
  refine payloadBits_congr fun k hk => ?_
  have hbyte : k / 8 = 0 := by omega
  have hbit : k % 8 = k := by omega
  simp [payloadBit, hbyte, hbit, fragment_getLsbD b hm (show k < 8 by omega), hk]

end Sys2Proof.Machine
end

section
/-! Absorbing a bit string (43_sponge_commands.md R172): the lanes after its complete blocks and the bits left over, which
compose over a string cut in two, and the main loop of `ABSORB` as one such absorption. -/

namespace Sys2Proof.Machine

/-! ### Complete blocks and leftover bits -/

/-- A fold over the first numbers, with its first step taken out. -/
theorem foldl_range_succ {α : Type} (f : α → Nat → α) (a : α) (k : Nat) :
    (List.range (k + 1)).foldl f a = (List.range k).foldl (fun b i => f b (i + 1)) (f a 0) := by
  rw [List.range_succ_eq_map, List.foldl_cons, List.foldl_map]

@[simp] theorem absorbBlocks_zero (rate : Nat) (bytes : List Byte) (A : Lanes) : absorbBlocks rate 0 bytes A = A := rfl

theorem absorbBlocks_succ (rate k : Nat) (bytes : List Byte) (A : Lanes) :
    absorbBlocks rate (k + 1) bytes A =
      absorbBlocks rate k (bytes.drop (rate / 8)) (permute (xorBlock (rate / 8) (bytes.take (rate / 8)) A)) := by
  have hfirst : bytes.drop (0 * (rate / 8)) = bytes := by rw [Nat.zero_mul, List.drop_zero]
  have hlater (i : Nat) : bytes.drop ((i + 1) * (rate / 8)) = (bytes.drop (rate / 8)).drop (i * (rate / 8)) := by
    rw [List.drop_drop, Nat.succ_mul, Nat.add_comm]
  rw [absorbBlocks, foldl_range_succ, hfirst]
  simp only [hlater]
  rw [absorbBlocks]

/-- Only the bytes of the complete blocks are read. -/
theorem absorbBlocks_take (rate k c : Nat) (bytes : List Byte) (A : Lanes) (h : k * (rate / 8) ≤ c) :
    absorbBlocks rate k (bytes.take c) A = absorbBlocks rate k bytes A := by
  induction k generalizing c bytes A with
  | zero => rw [absorbBlocks_zero, absorbBlocks_zero]
  | succ k ih =>
    rw [Nat.succ_mul] at h
    rw [absorbBlocks_succ, absorbBlocks_succ, List.drop_take, ih _ _ _ (by omega), List.take_take,
      Nat.min_eq_left (by omega)]

/-- The lanes after every complete block of a bit string. -/
def absorbBits (rate : Nat) (A : Lanes) (M : List Bool) : Lanes := absorbBlocks rate (M.length / rate) (packBytes M) A

/-- The bits after the last complete block. -/
def leftoverBits (rate : Nat) (M : List Bool) : List Bool := M.drop (M.length / rate * rate)

@[simp] theorem leftoverBits_length (rate : Nat) (M : List Bool) : (leftoverBits rate M).length = M.length % rate := by
  rw [leftoverBits, List.length_drop, Nat.mod_eq_sub_div_mul]

theorem absorbBits_of_lt {rate : Nat} {M : List Bool} (A : Lanes) (h : M.length < rate) : absorbBits rate A M = A := by
  rw [absorbBits, Nat.div_eq_of_lt h, absorbBlocks_zero]

theorem leftoverBits_of_lt {rate : Nat} {M : List Bool} (h : M.length < rate) : leftoverBits rate M = M := by
  rw [leftoverBits, Nat.div_eq_of_lt h, Nat.zero_mul, List.drop_zero]

theorem absorbBits_of_ge {rate : Nat} {M : List Bool} (A : Lanes) (hpos : 0 < rate) (h8 : rate % 8 = 0)
    (h : rate ≤ M.length) :
    absorbBits rate A M =
      absorbBits rate (permute (xorBlock (rate / 8) (packBytes (M.take rate)) A)) (M.drop rate) := by
  have hrate : 8 * (rate / 8) = rate := by omega
  have hcount : M.length / rate = (M.drop rate).length / rate + 1 := by
    rw [List.length_drop, ← Nat.add_div_right _ hpos, Nat.sub_add_cancel h]
  have htake := packBytes_take M (rate / 8) (by omega)
  have hdrop := packBytes_drop M (rate / 8)
  rw [hrate] at htake hdrop
  rw [absorbBits, hcount, absorbBlocks_succ, ← htake, ← hdrop, absorbBits]

theorem leftoverBits_of_ge {rate : Nat} {M : List Bool} (hpos : 0 < rate) (h : rate ≤ M.length) :
    leftoverBits rate M = leftoverBits rate (M.drop rate) := by
  have hcount : M.length / rate = (M.drop rate).length / rate + 1 := by
    rw [List.length_drop, ← Nat.add_div_right _ hpos, Nat.sub_add_cancel h]
  rw [leftoverBits, leftoverBits, hcount, List.drop_drop, Nat.succ_mul, Nat.add_comm]

/-- Absorbing a string cut in two: the bits the first part leaves over stand before the second part. -/
theorem absorbBits_append {rate : Nat} (hpos : 0 < rate) (h8 : rate % 8 = 0) (M N : List Bool) (A : Lanes) :
    absorbBits rate A (M ++ N) = absorbBits rate (absorbBits rate A M) (leftoverBits rate M ++ N) ∧
      leftoverBits rate (M ++ N) = leftoverBits rate (leftoverBits rate M ++ N) := by
  obtain hlt | hge := Nat.lt_or_ge M.length rate
  · rw [absorbBits_of_lt A hlt, leftoverBits_of_lt hlt]
    exact ⟨rfl, rfl⟩
  · have hge' : rate ≤ (M ++ N).length := by rw [List.length_append]; omega
    have hshorter : (M.drop rate).length < M.length := by rw [List.length_drop]; omega
    rw [absorbBits_of_ge A hpos h8 hge', leftoverBits_of_ge hpos hge', absorbBits_of_ge A hpos h8 hge,
      leftoverBits_of_ge hpos hge, List.take_append_of_le_length hge, List.drop_append_of_le_length hge]
    exact absorbBits_append hpos h8 (M.drop rate) N _
termination_by M.length

/-! ### One iteration through the queue (R169 to R171) -/

@[simp] theorem fillQueue_Q (n : Nat) (data : List Byte) (s : State) :
    (fillQueue n data s).Q = writeQueue (s.bitsInQueue.toNat / 8) (data.take (n / 8)) s.Q := rfl

@[simp] theorem storeFragment_Q (m : Nat) (b : Byte) (s : State) :
    (storeFragment m b s).Q = writeQueue (s.bitsInQueue.toNat / 8) [fragment m b] s.Q := rfl

theorem fillQueue_bitsInQueue {n : Nat} {s : State} (data : List Byte) (h : s.bitsInQueue.toNat + n < 2 ^ 11) :
    (fillQueue n data s).bitsInQueue.toNat = s.bitsInQueue.toNat + n :=
  (BitVec.toNat_ofNat _ _).trans (Nat.mod_eq_of_lt h)

theorem storeFragment_bitsInQueue {m : Nat} {s : State} (b : Byte) (h : s.bitsInQueue.toNat + m < 2 ^ 11) :
    (storeFragment m b s).bitsInQueue.toNat = s.bitsInQueue.toNat + m :=
  (BitVec.toNat_ofNat _ _).trans (Nat.mod_eq_of_lt h)

/-- Whole bytes copied to the queue queue their bits. -/
theorem queuedBits_fillQueue {n : Nat} {data : List Byte} {s : State} (hb : s.bitsInQueue.toNat % 8 = 0) (hn : n % 8 = 0)
    (hfit : s.bitsInQueue.toNat + n ≤ 1600) (hlen : n / 8 ≤ data.length) :
    queuedBits (fillQueue n data s) = queuedBits s ++ payloadBits n data := by
  have hbits : s.bitsInQueue.toNat = 8 * (s.bitsInQueue.toNat / 8) := by omega
  have htake : (data.take (n / 8)).length = n / 8 := List.length_take_of_le hlen
  have hwrite := payloadBits_writeQueue (off := s.bitsInQueue.toNat / 8) (n := n) s.Q
    (by rw [htake]; omega) (by rw [htake]; omega)
  have hdata := payloadBits_append_left (n := n) (data.take (n / 8)) (data.drop (n / 8)) (by rw [htake]; omega)
  rw [List.take_append_drop] at hdata
  rw [← hbits, ← hdata] at hwrite
  rw [queuedBits, fillQueue_bitsInQueue data (by omega), fillQueue_Q, hwrite, queuedBits]

theorem queuedBits_storeFragment {m : Nat} (b : Byte) {s : State} (hb : s.bitsInQueue.toNat % 8 = 0) (hm : m < 8)
    (hfit : s.bitsInQueue.toNat < 1600) :
    queuedBits (storeFragment m b s) = queuedBits s ++ payloadBits m [b] := by
  have hbits : s.bitsInQueue.toNat = 8 * (s.bitsInQueue.toNat / 8) := by omega
  have hwrite := payloadBits_writeQueue (off := s.bitsInQueue.toNat / 8) (n := m) (bs := [fragment m b]) s.Q
    (by simp; omega) (by simp; omega)
  rw [← hbits] at hwrite
  rw [queuedBits, storeFragment_bitsInQueue b (by omega), storeFragment_Q, hwrite, payloadBits_fragment b hm, queuedBits]

/-- The queue with a full block is absorbed and empty. -/
theorem absorbQueue_A (s : State) (h : s.rate.toNat ≤ 1600) :
    (absorbQueue s).A =
      permute (xorBlock (s.rate.toNat / 8) (packBytes (payloadBits (8 * (s.rate.toNat / 8)) s.Q.toList)) s.A) := by
  rw [packBytes_payloadBits_queue s.Q (by omega)]
  rfl

end Sys2Proof.Machine
end

section
/-! The main loop of `ABSORB` (43_sponge_commands.md R167 to R171): each iteration absorbs a stretch of the payload's bits
after those queued, and the stretches compose. -/

namespace Sys2Proof.Machine

/-- The queue as the loop finds it: a legal rate, and whole bytes of less than a block queued. -/
structure AlignedQueue (s : State) : Prop where
  rateBytes : s.rate.toNat % 8 = 0
  rateLe : s.rate.toNat ≤ 1600
  queued : s.bitsInQueue.toNat < s.rate.toNat
  aligned : s.bitsInQueue.toNat % 8 = 0

/-- `t` is `s` after the bits `M` were absorbed behind those queued: complete blocks into the lanes, the rest queued, the
queue above the block untouched and a fragment's byte zero above the fragment. -/
structure Absorbed (s t : State) (M : List Bool) : Prop where
  lanes : t.A = absorbBits s.rate.toNat s.A (queuedBits s ++ M)
  queued : queuedBits t = leftoverBits s.rate.toNat (queuedBits s ++ M)
  above : ∀ j : Fin 200, s.rate.toNat / 8 ≤ j.val → t.Q[j] = s.Q[j]
  fragment : t.bitsInQueue.toNat % 8 ≠ 0 → ∀ k : Fin 8, t.bitsInQueue.toNat % 8 ≤ k.val →
    qbit t.Q (8 * (t.bitsInQueue.toNat / 8) + k.val) = false

theorem Absorbed.bitsInQueue {s t : State} {M : List Bool} (h : Absorbed s t M) :
    t.bitsInQueue.toNat = (s.bitsInQueue.toNat + M.length) % s.rate.toNat := by
  have hlen := congrArg List.length h.queued
  simpa using hlen

/-- Two absorptions in a row are that of the joined bits. -/
theorem Absorbed.trans {s u t : State} {M N : List Bool} (hs : AlignedQueue s) (hr : u.rate = s.rate)
    (hM : Absorbed s u M) (hN : Absorbed u t N) : Absorbed s t (M ++ N) := by
  obtain ⟨hA, hleft⟩ := absorbBits_append (Nat.zero_lt_of_lt hs.queued) hs.rateBytes (queuedBits s ++ M) N s.A
  refine ⟨?_, ?_, fun j hj => ?_, hN.fragment⟩
  · rw [hN.lanes, hM.lanes, hM.queued, hr, ← hA, List.append_assoc]
  · rw [hN.queued, hM.queued, hr, ← hleft, List.append_assoc]
  · rw [hN.above j (by rwa [hr]), hM.above j hj]

/-- While the bits do not fill the block they are only queued. -/
theorem Absorbed.of_queued {s t : State} {M : List Bool} (hA : t.A = s.A) (hq : queuedBits t = queuedBits s ++ M)
    (hlt : s.bitsInQueue.toNat + M.length < s.rate.toNat)
    (habove : ∀ j : Fin 200, s.rate.toNat / 8 ≤ j.val → t.Q[j] = s.Q[j])
    (hfrag : t.bitsInQueue.toNat % 8 ≠ 0 → ∀ k : Fin 8, t.bitsInQueue.toNat % 8 ≤ k.val →
      qbit t.Q (8 * (t.bitsInQueue.toNat / 8) + k.val) = false) : Absorbed s t M := by
  have hlen : (queuedBits s ++ M).length < s.rate.toNat := by simpa using hlt
  exact ⟨by rw [hA, absorbBits_of_lt _ hlen], by rw [hq, leftoverBits_of_lt hlen], habove, hfrag⟩

/-- Bits that fill the block exactly are absorbed as that block. -/
theorem Absorbed.of_block {s t : State} {M : List Bool} (hs : AlignedQueue s)
    (hlen : s.bitsInQueue.toNat + M.length = s.rate.toNat)
    (hA : t.A = permute (xorBlock (s.rate.toNat / 8) (packBytes (queuedBits s ++ M)) s.A)) (hq : t.bitsInQueue = 0)
    (habove : ∀ j : Fin 200, s.rate.toNat / 8 ≤ j.val → t.Q[j] = s.Q[j]) : Absorbed s t M := by
  have hpos : 0 < s.rate.toNat := Nat.zero_lt_of_lt hs.queued
  have hlen' : (queuedBits s ++ M).length = s.rate.toNat := by simpa using hlen
  have hnil : ([] : List Bool).length < s.rate.toNat := hpos
  refine ⟨?_, ?_, habove, fun h => absurd (by simp [hq]) h⟩
  · rw [absorbBits_of_ge _ hpos hs.rateBytes hlen'.ge, List.take_of_length_le hlen'.le, List.drop_of_length_le hlen'.le,
      absorbBits_of_lt _ hnil, hA]
  · rw [leftoverBits_of_ge hpos hlen'.ge, List.drop_of_length_le hlen'.le, leftoverBits_of_lt hnil, queuedBits_eq_nil hq]

theorem Absorbed.refl {s : State} (hs : AlignedQueue s) : Absorbed s s [] :=
  .of_queued rfl (List.append_nil _).symm hs.queued (fun _ _ => rfl) fun h => absurd hs.aligned h

theorem writeQueue_get_above {off c : Nat} {bs : List Byte} (Q : Bytes200) (h : off + bs.length ≤ c) (j : Fin 200)
    (hj : c ≤ j.val) : (writeQueue off bs Q)[j] = Q[j] := by
  have hout : ¬(off ≤ j.val ∧ j.val < off + bs.length) := by omega
  exact (writeQueue_get off bs Q j.val j.isLt).trans (if_neg hout)

/-- The byte a fragment is stored in is zero above it. -/
theorem qbit_storeFragment_above {m : Nat} (b : Byte) {s : State} (hm : m < 8) (hfit : s.bitsInQueue.toNat < 1600)
    (k : Fin 8) (hk : m ≤ k.val) :
    qbit (storeFragment m b s).Q (8 * (s.bitsInQueue.toNat / 8) + k.val) = false := by
  have hbyte : (8 * (s.bitsInQueue.toNat / 8) + k.val) / 8 = s.bitsInQueue.toNat / 8 := by omega
  have hbit : (8 * (s.bitsInQueue.toNat / 8) + k.val) % 8 = k.val := by omega
  have hk' : ¬k.val < m := by omega
  rw [qbit_of_lt _ _ (by omega)]
  simp only [hbyte, hbit, storeFragment_Q, writeQueue_get]
  simpa [hk'] using fragment_getLsbD b hm k.isLt

/-- Regime 1: a block straight from the payload (R168). -/
theorem absorbed_absorbBlock {data : List Byte} {s : State} (hs : AlignedQueue s) (hq : s.bitsInQueue = 0)
    (hlen : s.rate.toNat / 8 ≤ data.length) :
    Absorbed s (absorbBlock (data.take (blockBytes s)) s) (payloadBits s.rate.toNat data) := by
  refine .of_block hs (by simp [hq]) ?_ hq fun _ _ => rfl
  rw [queuedBits_eq_nil hq, List.nil_append, packBytes_payloadBits hlen]
  rfl

theorem bitsThatFit_le (rem : Nat) (s : State) :
    bitsThatFit rem s ≤ rem ∧ bitsThatFit rem s ≤ s.rate.toNat - s.bitsInQueue.toNat :=
  ⟨Nat.min_le_left _ _, Nat.min_le_right _ _⟩

/-- Regime 2: whole bytes that leave the block short are queued (R169). -/
theorem absorbed_fillQueue {n : Nat} {data : List Byte} {s : State} (hs : AlignedQueue s) (hn : n % 8 = 0)
    (hlen : n / 8 ≤ data.length) (hlt : s.bitsInQueue.toNat + n < s.rate.toNat) :
    AlignedQueue (fillQueue n data s) ∧ Absorbed s (fillQueue n data s) (payloadBits n data) := by
  obtain ⟨hrate8, hrate, -, hb8⟩ := hs
  have hqueue := fillQueue_bitsInQueue (n := n) (s := s) data (by omega)
  have hend : s.bitsInQueue.toNat / 8 + (data.take (n / 8)).length ≤ s.rate.toNat / 8 := by
    rw [List.length_take_of_le hlen]; omega
  refine ⟨⟨hrate8, hrate, ?_, by omega⟩,
    .of_queued rfl ?_ ?_ (writeQueue_get_above s.Q hend) fun h => absurd (by omega) h⟩
  · rw [hqueue, fillQueue_rate]; exact hlt
  · exact queuedBits_fillQueue hb8 hn (by omega) hlen
  · rwa [payloadBits_length]

/-- Regime 2: whole bytes that fill the block are absorbed with those queued (R170). -/
theorem absorbed_fillQueue_full {n : Nat} {data : List Byte} {s : State} (hs : AlignedQueue s) (hn : n % 8 = 0)
    (hlen : n / 8 ≤ data.length) (hfull : s.bitsInQueue.toNat + n = s.rate.toNat) :
    Absorbed s (absorbQueue (fillQueue n data s)) (payloadBits n data) := by
  have ⟨hrate8, hrate, _, hb8⟩ := hs
  have hend : s.bitsInQueue.toNat / 8 + (data.take (n / 8)).length ≤ s.rate.toNat / 8 := by
    rw [List.length_take_of_le hlen]; omega
  have hblock : 8 * (s.rate.toNat / 8) = (fillQueue n data s).bitsInQueue.toNat := by
    rw [fillQueue_bitsInQueue data (by omega)]; omega
  refine .of_block hs (by rwa [payloadBits_length]) ?_ rfl (writeQueue_get_above s.Q hend)
  rw [absorbQueue_A (fillQueue n data s) hrate, fillQueue_rate, hblock, ← queuedBits_fillQueue hb8 hn (by omega) hlen]
  rfl

/-- Regime 3: the low bits of the next byte are queued in a byte of their own (R171). -/
theorem absorbed_storeFragment {m : Nat} (b : Byte) {s : State} (hs : AlignedQueue s) (hm : m < 8)
    (hlt : s.bitsInQueue.toNat + m < s.rate.toNat) : Absorbed s (storeFragment m b s) (payloadBits m [b]) := by
  obtain ⟨hrate8, hrate, hb, hb8⟩ := hs
  have hqueue := storeFragment_bitsInQueue (m := m) (s := s) b (by omega)
  have hend : s.bitsInQueue.toNat / 8 + [fragment m b].length ≤ s.rate.toNat / 8 := by
    rw [List.length_singleton]; omega
  refine .of_queued rfl (queuedBits_storeFragment b hb8 hm (by omega)) (by rwa [payloadBits_length])
    (writeQueue_get_above s.Q hend) fun _ k hk => ?_
  have hbyte : (storeFragment m b s).bitsInQueue.toNat / 8 = s.bitsInQueue.toNat / 8 := by omega
  rw [hbyte]
  exact qbit_storeFragment_above b hm (by omega) k (by omega)

/-- Regimes 2 and 3: as many bits as fit go through the queue. -/
theorem absorbed_absorbPartial {rem : Nat} {data : List Byte} {s : State} (hs : AlignedQueue s)
    (hlen : ceil8 rem ≤ data.length) :
    Absorbed s (absorbPartial rem data s) (payloadBits (bitsThatFit rem s) data) := by
  have ⟨hrate8, hrate, hb, hb8⟩ := hs
  obtain ⟨hfrem, hfit⟩ := bitsThatFit_le rem s
  rw [absorbPartial]
  generalize bitsThatFit rem s = f at hfrem hfit ⊢
  obtain ⟨m, c, hm8, rfl⟩ : ∃ m c, m < 8 ∧ f = 8 * c + m := ⟨f % 8, f / 8, by omega⟩
  have hm : (8 * c + m) % 8 = m := by omega
  have hn : 8 * c + m - m = 8 * c := by omega
  have hc : 8 * c / 8 = c := by omega
  have hdata : 8 * c / 8 ≤ data.length := by rw [ceil8] at hlen; omega
  simp only [hm, hn, hc]
  rw [payloadBits_add, payloadBits_first_byte data c hm8.le]
  obtain hfull | hpart : s.bitsInQueue.toNat + 8 * c = s.rate.toNat ∨
      s.bitsInQueue.toNat + 8 * c + m < s.rate.toNat := by omega
  · obtain rfl : m = 0 := by omega
    have hflush : flushFullQueue (fillQueue (8 * c) data s) = absorbQueue (fillQueue (8 * c) data s) :=
      if_pos (BitVec.eq_of_toNat_eq ((fillQueue_bitsInQueue data (by omega)).trans hfull))
    rw [if_neg (lt_irrefl 0), hflush, payloadBits_zero, List.append_nil]
    exact absorbed_fillQueue_full hs (by omega) hdata hfull
  · have hqueue := fillQueue_bitsInQueue (n := 8 * c) (s := s) data (by omega)
    have hflush : flushFullQueue (fillQueue (8 * c) data s) = fillQueue (8 * c) data s := by
      refine if_neg fun h => ?_
      rw [h, fillQueue_rate] at hqueue
      omega
    obtain ⟨haligned, hfill⟩ := absorbed_fillQueue hs (by omega) hdata (by omega : s.bitsInQueue.toNat + 8 * c < _)
    rw [hflush]
    split
    · exact hfill.trans hs (fillQueue_rate s _ data)
        (absorbed_storeFragment _ haligned hm8 (by rw [hqueue, fillQueue_rate]; exact hpart))
    · obtain rfl : m = 0 := by omega
      rwa [payloadBits_zero, List.append_nil]

/-- The loop absorbs the counted bits of the payload. -/
theorem absorbed_absorbLoop {fuel rem : Nat} {data : List Byte} {s : State} (hs : AlignedQueue s) (hfuel : rem ≤ fuel)
    (hlen : ceil8 rem ≤ data.length) : Absorbed s (absorbLoop fuel rem data s) (payloadBits rem data) := by
  induction fuel generalizing rem data s with
  | zero =>
    obtain rfl : rem = 0 := by omega
    exact .refl hs
  | succ fuel ih =>
    obtain rfl | hrem := Nat.eq_zero_or_pos rem
    · rw [absorbLoop_done]
      exact .refl hs
    have hceil := hlen
    rw [ceil8] at hceil
    have ⟨hrate8, hrate, hb, hb8⟩ := hs
    by_cases hblock : s.bitsInQueue = 0 ∧ s.rate.toNat ≤ rem
    · obtain ⟨hq, hge⟩ := hblock
      have hsplit := payloadBits_add (s.rate.toNat / 8) (rem - s.rate.toNat) data
      have hrate' : 8 * (s.rate.toNat / 8) = s.rate.toNat := by omega
      rw [hrate', Nat.add_sub_cancel' hge] at hsplit
      rw [absorbLoop_block fuel rem data s hrem.ne' hq hge, hsplit]
      refine .trans hs (absorbBlock_rate s _) (absorbed_absorbBlock hs hq (by omega))
        (ih ⟨hrate8, hrate, hb, hb8⟩ (by omega) ?_)
      rw [ceil8, List.length_drop, blockBytes]
      omega
    · have hpart := absorbed_absorbPartial hs hlen
      rw [absorbLoop_partial fuel rem data s hrem.ne' hblock]
      obtain hall | hsome : bitsThatFit rem s = rem ∨
          (bitsThatFit rem s < rem ∧ bitsThatFit rem s = s.rate.toNat - s.bitsInQueue.toNat) := by
        rw [bitsThatFit]; omega
      · rw [hall, Nat.sub_self, absorbLoop_done]
        rwa [hall] at hpart
      · obtain ⟨hlt, hfit⟩ := hsome
        have hqueue := hpart.bitsInQueue
        rw [payloadBits_length, hfit, Nat.add_sub_cancel' hb.le, Nat.mod_self] at hqueue
        have hsplit := payloadBits_add (bitsThatFit rem s / 8) (rem - bitsThatFit rem s) data
        have hf : 8 * (bitsThatFit rem s / 8) = bitsThatFit rem s := by omega
        rw [hf, Nat.add_sub_cancel' hlt.le] at hsplit
        rw [hsplit]
        refine .trans hs (absorbPartial_rate s rem data) hpart (ih ⟨?_, ?_, ?_, ?_⟩ (by omega) ?_)
        · rwa [absorbPartial_rate]
        · rwa [absorbPartial_rate]
        · rw [hqueue, absorbPartial_rate]; omega
        · rw [hqueue]
        · rw [ceil8, List.length_drop]; omega

end Sys2Proof.Machine
end

section
/-! The engine and what stands beside it (10_state.md R20, R40): a state is its engine on some host's side, and the invariant
is about the engine alone. -/

namespace Sys2Proof.Machine

/-- The engine of `s` with the host's side, `CP` and the responses of `u`. -/
def State.withSide (s u : State) : State :=
  { s with cp := u.cp, host := u.host, din := u.din, responses := u.responses }

theorem eq_withSide_of_sameEngine {s t : State} (h : SameEngine s t) : t = s.withSide t := by
  obtain ⟨hA, hQ, hrate, hcap, hqueue, hleft, hsq, hconf⟩ := h
  rw [State.withSide, hA, hQ, hrate, hcap, hqueue, hleft, hsq, hconf]

theorem sameEngine_withSide (s u : State) : SameEngine s (s.withSide u) := ⟨rfl, rfl, rfl, rfl, rfl, rfl, rfl, rfl⟩

theorem sameEngine_complete (st : Status) (out : List Byte) (s : State) : SameEngine s (complete st out s) :=
  ⟨rfl, rfl, rfl, rfl, rfl, rfl, rfl, rfl⟩

theorem invConfigured_of_sameEngine {s t : State} (h : SameEngine s t) (hs : InvConfigured s) : InvConfigured t := by
  rw [eq_withSide_of_sameEngine h]
  obtain ⟨hsum, hlanes, hpos, hqueued, hleft, hbytes, habs, hsqq, hblock, habove, hfrag⟩ := hs
  exact ⟨hsum, hlanes, hpos, hqueued, hleft, hbytes, habs, hsqq, hblock, habove, hfrag⟩

theorem inv_of_sameEngine {s t : State} (h : SameEngine s t) (hs : Inv s) : Inv t := by
  obtain ⟨hconf, hunconf⟩ := hs
  rw [eq_withSide_of_sameEngine h]
  refine ⟨fun hc => invConfigured_of_sameEngine (sameEngine_withSide s t) (hconf hc), fun hc => ?_⟩
  obtain ⟨hlanes, hqueue, hrate, hcap, hqueued, hleft, habs⟩ := hunconf hc
  exact ⟨hlanes, hqueue, hrate, hcap, hqueued, hleft, habs⟩

end Sys2Proof.Machine
end

section
/-! `ABSORB` as a command (43_sponge_commands.md R165 to R174): what it leaves of a state that meets the invariant, runs of
commands, and the bits of the payload it reads in any state. -/

namespace Sys2Proof.Machine

/-! ### Runs of commands -/

theorem runCommands_cons {i : Instr} {s t : State} (h : exec i s = .next t) (is : List Instr) :
    runCommands (i :: is) s = runCommands is t := by
  rw [runCommands, h]

theorem newResponses_eq {s t : State} {rs : List Response} (h : t.responses = s.responses ++ rs) :
    newResponses s t = rs := by
  rw [newResponses, h, List.drop_left]

/-! ### From a state that meets the invariant (R172) -/

/-- A state in which `ABSORB` is allowed (R166) and which meets the invariant. -/
structure AbsorbReady (s : State) : Prop where
  inv : InvConfigured s
  configured : s.configured = true
  absorbing : s.squeezing = false
  aligned : s.bitsInQueue.toNat % 8 = 0

/-- What `ABSORB` leaves as it is, beside the queue above the block. -/
abbrev AbsorbKeeps (s t : State) : Prop :=
  t.bitsForSqueezing = s.bitsForSqueezing ∧ t.squeezing = s.squeezing ∧ SameParameters s t ∧ SameInput s t

theorem InvConfigured.rate_le {s : State} (h : InvConfigured s) : s.rate.toNat ≤ 1600 := by
  have hsum := h.sum
  omega

theorem InvConfigured.rate_mod_eight {s : State} (h : InvConfigured s) : s.rate.toNat % 8 = 0 := by
  have hlanes := h.lanes
  omega

theorem InvConfigured.rate_pos {s : State} (h : InvConfigured s) : 0 < s.rate.toNat :=
  Nat.zero_lt_of_lt h.positive

theorem AbsorbReady.alignedQueue {s : State} (h : AbsorbReady s) : AlignedQueue s :=
  ⟨h.inv.rate_mod_eight, h.inv.rate_le, h.inv.queued, h.aligned⟩

theorem AbsorbReady.absorbAllowed {s : State} (h : AbsorbReady s) : absorbAllowed s = true := by
  simp [Machine.absorbAllowed, h.configured, h.absorbing, h.aligned]

theorem exec_absorb_of_allowed {s : State} {n : BitVec 60} {data : List Byte} (hlen : ceil8 n.toNat ≤ data.length)
    (h : absorbAllowed s = true) :
    exec (.absorb n data) s = .next (complete .ok [] (absorbLoop n.toNat n.toNat data s)) := by
  rw [exec, execAbsorb, if_neg (Nat.not_lt.mpr hlen), if_pos h]

theorem absorbKeeps_absorbLoop (fuel rem : Nat) (data : List Byte) (s : State) :
    AbsorbKeeps s (absorbLoop fuel rem data s) := by
  obtain ⟨hrate, hcap, hconf, hsq, hleft, -, hhost, hdin, -⟩ := absorbLoop_keeps fuel rem data s
  exact ⟨hleft, hsq, ⟨hrate.symm, hcap.symm, hconf.symm⟩, hhost.symm, hdin.symm⟩

theorem exec_absorb_absorbed {s : State} (h : AbsorbReady s) {n : BitVec 60} {data : List Byte}
    (hlen : ceil8 n.toNat ≤ data.length) :
    ∃ t, exec (.absorb n data) s = .next t ∧ Answers s t ⟨.ok, []⟩ ∧ Absorbed s t (payloadBits n.toNat data) ∧
      AbsorbKeeps s t := by
  have ⟨hA, hQ, habove, hfrag⟩ := absorbed_absorbLoop h.alignedQueue (le_refl n.toNat) hlen
  obtain ⟨-, -, -, -, -, hcp, -, -, hresp⟩ := absorbLoop_keeps n.toNat n.toNat data s
  exact ⟨_, exec_absorb_of_allowed hlen h.absorbAllowed,
    ⟨by rw [complete_cp, hcp], by rw [complete_responses, hresp]⟩, ⟨hA, hQ, habove, hfrag⟩,
    absorbKeeps_absorbLoop n.toNat n.toNat data s⟩

/-- An absorption keeps the invariant. -/
theorem Absorbed.invConfigured {s t : State} {M : List Bool} (hM : Absorbed s t M) (hs : InvConfigured s)
    (hsq : s.squeezing = false) (hkeeps : AbsorbKeeps s t) : InvConfigured t := by
  obtain ⟨hleft, htsq, ⟨hrate, hcap, -⟩, -⟩ := hkeeps
  have hsqF : t.squeezing ≠ true := by simp [htsq, hsq]
  constructor
  case sum => rw [← hrate, ← hcap, hs.sum]
  case lanes => rw [← hrate, hs.lanes]
  case positive => rw [← hrate]; exact hs.positive
  case queued => rw [hM.bitsInQueue, ← hrate]; exact Nat.mod_lt _ hs.rate_pos
  case left => rw [hleft, ← hrate]; exact hs.left
  case leftBytes => rw [hleft]; exact hs.leftBytes
  case absorbing => exact fun _ => hleft.trans (hs.absorbing hsq)
  case squeezing => exact fun h => absurd h hsqF
  case block => exact fun h => absurd h hsqF
  case above => rw [← hrate]; exact fun j hj => (hM.above j hj).trans (hs.above j hj)
  case fragment => exact hM.fragment

/-- The rate is whole bytes, so where in a byte the queue ends is where the bits absorbed end. -/
theorem Absorbed.bitsInQueue_mod_eight {s t : State} {M : List Bool} (hM : Absorbed s t M) (hs : AbsorbReady s) :
    t.bitsInQueue.toNat % 8 = M.length % 8 := by
  have hdvd : 8 ∣ s.rate.toNat := Nat.dvd_of_mod_eq_zero hs.inv.rate_mod_eight
  rw [hM.bitsInQueue, Nat.mod_mod_of_dvd _ hdvd, Nat.add_mod, hs.aligned, Nat.zero_add, Nat.mod_mod]

/-- Whole bytes leave a byte-aligned queue, so `ABSORB` is allowed again. -/
theorem Absorbed.absorbReady {s t : State} {M : List Bool} (hM : Absorbed s t M) (hs : AbsorbReady s)
    (hkeeps : AbsorbKeeps s t) (hbytes : M.length % 8 = 0) : AbsorbReady t := by
  have hinv := hM.invConfigured hs.inv hs.absorbing hkeeps
  obtain ⟨-, hsq, ⟨-, -, hconf⟩, -⟩ := hkeeps
  exact ⟨hinv, hconf.symm.trans hs.configured, hsq.trans hs.absorbing, (hM.bitsInQueue_mod_eight hs).trans hbytes⟩

/-- The queued bits and those of a payload are the bits of the queued bytes followed by it. -/
theorem queuedBits_append_payloadBits {s : State} (hle : s.bitsInQueue.toNat ≤ 1600) (hb : s.bitsInQueue.toNat % 8 = 0)
    (n : Nat) (data : List Byte) :
    queuedBits s ++ payloadBits n data =
      payloadBits (s.bitsInQueue.toNat + n) (readQueue 0 (s.bitsInQueue.toNat / 8) s.Q ++ data) := by
  have hlen : 8 * (readQueue 0 (s.bitsInQueue.toNat / 8) s.Q).length = s.bitsInQueue.toNat := by
    rw [readQueue_length]; omega
  have hqueue : payloadBits s.bitsInQueue.toNat (readQueue 0 (s.bitsInQueue.toNat / 8) s.Q) = queuedBits s := by
    rw [queuedBits, ← payloadBits_append_left _ (s.Q.toList.drop (s.bitsInQueue.toNat / 8)) hlen.ge, readQueue,
      List.drop_zero, List.take_append_drop]
  have happend := payloadBits_append (readQueue 0 (s.bitsInQueue.toNat / 8) s.Q) data n
  rw [hlen, hqueue] at happend
  exact happend.symm

/-- The lanes after the counted bits of a payload are those after its complete blocks. -/
theorem absorbBits_payloadBits {rate n : Nat} {bytes : List Byte} (h8 : rate % 8 = 0) (h : n / 8 ≤ bytes.length)
    (A : Lanes) : absorbBits rate A (payloadBits n bytes) = absorbBlocks rate (n / rate) bytes A := by
  have hblocks : n / rate * (rate / 8) ≤ n / 8 := by
    rw [Nat.le_div_iff_mul_le (by decide), Nat.mul_assoc, Nat.div_mul_cancel (Nat.dvd_of_mod_eq_zero h8)]
    exact Nat.div_mul_le_self n rate
  rw [absorbBits, payloadBits_length, packBytes_payloadBits h, absorbBlocks_take _ _ _ _ _ hblocks]

theorem getD_leftoverBits_payloadBits {rate n p : Nat} (bytes : List Byte) (hp : p < n % rate) :
    (leftoverBits rate (payloadBits n bytes)).getD p false = payloadBit bytes (n / rate * rate + p) := by
  have hlt : n / rate * rate + p < n := by
    have hdiv := Nat.div_add_mod' n rate
    omega
  rw [leftoverBits, payloadBits_length, ← getD_payloadBits bytes hlt]
  simp

/-! ### The bits read (R54, R81), in every state -/

/-- Payloads with the same counted bits have the same whole bytes among them. -/
theorem take_eq_of_payloadBits_eq {n c : Nat} {d d' : List Byte} (h : payloadBits n d = payloadBits n d') (hc : 8 * c ≤ n)
    (hd : ceil8 n ≤ d.length) (hd' : ceil8 n ≤ d'.length) : d.take c = d'.take c := by
  rw [ceil8] at hd hd'
  have hpack := congrArg (List.take c) (congrArg packBytes h)
  rwa [packBytes_payloadBits (by omega), packBytes_payloadBits (by omega), List.take_take, List.take_take,
    Nat.min_eq_left (by omega)] at hpack

/-- The counted bits after `c` whole bytes agree too. -/
theorem payloadBits_drop_eq {n m c : Nat} {d d' : List Byte} (h : payloadBits n d = payloadBits n d')
    (hm : 8 * c + m ≤ n) : payloadBits m (d.drop c) = payloadBits m (d'.drop c) := by
  have hdrop := congrArg (List.take m) (congrArg (List.drop (8 * c)) h)
  rwa [payloadBits_drop _ _ (by omega), payloadBits_drop _ _ (by omega), payloadBits_take _ (by omega),
    payloadBits_take _ (by omega)] at hdrop

/-- The bits of a fragment's byte that are stored are its low ones. -/
theorem fragment_eq_of_payloadBits_eq {m : Nat} {b b' : Byte} (hm : m < 8) (h : payloadBits m [b] = payloadBits m [b']) :
    fragment m b = fragment m b' := by
  apply BitVec.eq_of_getLsbD_eq
  intro k hk
  rw [fragment_getLsbD b hm hk, fragment_getLsbD b' hm hk]
  by_cases hkm : k < m
  · have hbit := congrArg (List.getD · k false) h
    have hbyte : k / 8 = 0 := by omega
    have hmod : k % 8 = k := by omega
    simp only [getD_payloadBits _ hkm] at hbit
    simp only [payloadBit, hbyte, hmod, List.getD_cons_zero] at hbit
    rw [hbit]
  · simp [hkm]

theorem absorbPartial_congr {rem : Nat} {d d' : List Byte} (s : State) (h : payloadBits rem d = payloadBits rem d')
    (hd : ceil8 rem ≤ d.length) (hd' : ceil8 rem ≤ d'.length) : absorbPartial rem d s = absorbPartial rem d' s := by
  obtain ⟨hfrem, -⟩ := bitsThatFit_le rem s
  have hcopy : d.take ((bitsThatFit rem s - bitsThatFit rem s % 8) / 8) =
      d'.take ((bitsThatFit rem s - bitsThatFit rem s % 8) / 8) := take_eq_of_payloadBits_eq h (by omega) hd hd'
  have hm : bitsThatFit rem s % 8 < 8 := Nat.mod_lt _ (by decide)
  have hlast := payloadBits_drop_eq (m := bitsThatFit rem s % 8)
    (c := (bitsThatFit rem s - bitsThatFit rem s % 8) / 8) h (by omega)
  rw [payloadBits_first_byte _ _ hm.le, payloadBits_first_byte _ _ hm.le] at hlast
  simp only [absorbPartial, fillQueue, storeFragment, hcopy, fragment_eq_of_payloadBits_eq hm hlast]

/-- Payloads with the same counted bits are absorbed alike: what an iteration reads and what it leaves are determined by
them. -/
theorem absorbLoop_congr {fuel rem : Nat} {d d' : List Byte} (s : State) (h : payloadBits rem d = payloadBits rem d')
    (hd : ceil8 rem ≤ d.length) (hd' : ceil8 rem ≤ d'.length) : absorbLoop fuel rem d s = absorbLoop fuel rem d' s := by
  induction fuel generalizing rem d d' s with
  | zero => rfl
  | succ fuel ih =>
    obtain rfl | hrem := Nat.eq_zero_or_pos rem
    · rw [absorbLoop_done, absorbLoop_done]
    have hd₀ := hd
    have hd₀' := hd'
    rw [ceil8] at hd₀ hd₀'
    by_cases hblock : s.bitsInQueue = 0 ∧ s.rate.toNat ≤ rem
    · obtain ⟨hq, hge⟩ := hblock
      have hbytes : 8 * blockBytes s ≤ s.rate.toNat := by rw [blockBytes]; omega
      rw [absorbLoop_block _ _ _ _ hrem.ne' hq hge, absorbLoop_block _ _ _ _ hrem.ne' hq hge,
        take_eq_of_payloadBits_eq h (hbytes.trans hge) hd hd']
      apply ih
      · exact payloadBits_drop_eq h (by omega)
      all_goals rw [ceil8, List.length_drop]; omega
    · obtain ⟨hfrem, -⟩ := bitsThatFit_le rem s
      rw [absorbLoop_partial _ _ _ _ hrem.ne' hblock, absorbLoop_partial _ _ _ _ hrem.ne' hblock,
        absorbPartial_congr s h hd hd']
      apply ih
      · exact payloadBits_drop_eq h (by omega)
      all_goals rw [ceil8, List.length_drop]; omega

end Sys2Proof.Machine
end

section
/-! The statements on `ABSORB` (43_sponge_commands.md section 2). -/

open Sys2Proof Sys2Proof.Machine

/-- Settles O36: the loop absorbs the queued and the counted bits, and these are the bits of the queued bytes followed by
the payload. -/
theorem absorbNetEffect : Obligations.AbsorbNetEffect := by
  intro s n data hinv hc hsq hb hlen bytes k
  have hs : AbsorbReady s := ⟨hinv.configured hc, hc, hsq, hb⟩
  obtain ⟨t, hexec, hans, hM, hleft, htsq, hparams, hinput⟩ := exec_absorb_absorbed hs hlen
  have hbits := queuedBits_append_payloadBits (hs.inv.queued.le.trans hs.inv.rate_le) hb n.toNat data
  change _ = payloadBits _ bytes at hbits
  have hbytes : (s.bitsInQueue.toNat + n.toNat) / 8 ≤ bytes.length := by
    rw [ceil8] at hlen
    have hblock := hs.inv.queued.trans_le hs.inv.rate_le
    simp only [bytes, List.length_append, readQueue_length]
    omega
  have hqueue := hM.bitsInQueue
  rw [payloadBits_length] at hqueue
  refine ⟨t, hexec, hans, ?_, hqueue, fun p hp => ?_, hM.above, hleft, htsq, hparams, hinput⟩
  · rw [hM.lanes, hbits, absorbBits_payloadBits hs.inv.rate_mod_eight hbytes]
  · rw [← getD_queuedBits hp, hM.queued, hbits]
    exact getD_leftoverBits_payloadBits bytes (hqueue ▸ hp)

/-- Settles O37: the two commands absorb the bits of the first chunk and then those of the second, which are the bits of the
joined payload. -/
theorem absorbIsIncremental : Obligations.AbsorbIsIncremental := by
  intro s n1 n2 n d1 d2 hinv hc hsq hb hn1 hlen2 hn
  have hs : AbsorbReady s := ⟨hinv.configured hc, hc, hsq, hb⟩
  have hlen1 : ceil8 n1.toNat ≤ d1.length := by rw [ceil8]; omega
  have hlen : ceil8 n.toNat ≤ (d1 ++ d2).length := by rw [ceil8] at hlen2 ⊢; rw [List.length_append]; omega
  obtain ⟨t1, hexec1, ⟨-, hresp1⟩, hM1, hkeeps1⟩ := exec_absorb_absorbed hs hlen1
  have ⟨_, _, ⟨hrate1, _⟩, _⟩ := hkeeps1
  have hs1 : AbsorbReady t1 := hM1.absorbReady hs hkeeps1 (by simp [hn1])
  obtain ⟨t, hexec2, ⟨-, hresp2⟩, hM2, -⟩ := exec_absorb_absorbed hs1 hlen2
  obtain ⟨u, hexec, ⟨-, hresp⟩, hM, -⟩ := exec_absorb_absorbed hs hlen
  have hboth := hM1.trans hs.alignedQueue hrate1.symm hM2
  rw [hn1, ← payloadBits_append, ← hn1, ← hn] at hboth
  have hqueued : queuedBits t = queuedBits u := hboth.queued.trans hM.queued.symm
  have hcount : t.bitsInQueue = u.bitsInQueue := BitVec.eq_of_toNat_eq (hboth.bitsInQueue.trans hM.bitsInQueue.symm)
  refine ⟨t, u, ?_, hexec, hboth.lanes.trans hM.lanes.symm, hcount, fun p hp => ?_, ?_, newResponses_eq hresp⟩
  · rw [runCommands_cons hexec1, runCommands_cons hexec2, runCommands]
  · rw [← getD_queuedBits hp, ← getD_queuedBits (hcount ▸ hp), hqueued]
  · exact newResponses_eq (by rw [hresp2, hresp1, List.append_assoc]; rfl)

/-- Settles O38: the payload is read only by the loop, which absorbs alike what agrees on the counted bits. -/
theorem absorbReadsOnlyTheCountedBits : Obligations.AbsorbReadsOnlyTheCountedBits := by
  intro s n d1 d2 hd1 hd2 h
  rw [exec, exec, execAbsorb, execAbsorb, if_neg (Nat.not_lt.mpr hd1), if_neg (Nat.not_lt.mpr hd2),
    absorbLoop_congr s (payloadBits_congr h) hd1 hd2]

end

section
/-! `SQUEEZE` (43_sponge_commands.md R175 to R180): each iteration of its loop delivers the next bytes of the output stream,
and deliveries compose. -/

namespace Sys2Proof.Machine

/-! ### The output stream (R178) -/

/-- From the lanes `k` permutations later on, the stream goes on `k` blocks later. -/
theorem streamByte_iterate (rate : Nat) (A : Lanes) (k i : Nat) (h : 0 < rate / 8) :
    streamByte rate (permute^[k] A) i = streamByte rate A (k * (rate / 8) + i) := by
  have hdiv : (k * (rate / 8) + i) / (rate / 8) = i / (rate / 8) + k := by
    rw [Nat.add_comm, Nat.add_mul_div_right _ _ h]
  have hmod : (k * (rate / 8) + i) % (rate / 8) = i % (rate / 8) := by rw [Nat.add_comm, Nat.add_mul_mod_self_right]
  rw [streamByte, streamByte, hdiv, hmod, Function.iterate_add_apply]

@[simp] theorem streamSlice_length (rate : Nat) (A : Lanes) (o n : Nat) : (streamSlice rate A o n).length = n := by
  rw [streamSlice, List.length_map, List.length_range]

theorem streamSlice_iterate (rate : Nat) (A : Lanes) (k o n : Nat) (h : 0 < rate / 8) :
    streamSlice rate (permute^[k] A) o n = streamSlice rate A (k * (rate / 8) + o) n := by
  rw [streamSlice, streamSlice]
  refine List.map_congr_left fun i _ => ?_
  rw [streamByte_iterate rate A k _ h, Nat.add_assoc]

theorem streamSlice_add (rate : Nat) (A : Lanes) (o n m : Nat) :
    streamSlice rate A o (n + m) = streamSlice rate A o n ++ streamSlice rate A (o + n) m := by
  simp only [streamSlice, List.range_add, List.map_append, List.map_map, Function.comp_def, Nat.add_assoc]

/-- Within the first block the stream is the rate region of the lanes. -/
theorem streamByte_of_lt {rate : Nat} (A : Lanes) {i : Nat} (h : i < rate / 8) (h200 : i < 200) :
    streamByte rate A i = sByte A ⟨i, h200⟩ := by
  rw [streamByte, Nat.div_eq_of_lt h, Nat.mod_eq_of_lt h, Function.iterate_zero, id_eq,
    List.getD_eq_getElem _ _ (by rwa [Vector.length_toList]), Vector.getElem_toList, bytesOfLanes_get]

/-! ### Deliveries -/

/-- A configured engine in the squeezing phase that meets the invariant. -/
structure SqueezeReady (s : State) : Prop where
  inv : InvConfigured s
  configured : s.configured = true
  squeezing : s.squeezing = true

/-- How many bytes of the current block are delivered. -/
def blockOffset (s : State) : Nat := (s.rate.toNat - s.bitsForSqueezing.toNat) / 8

/-- `t` is `s` after the bytes `out` of its output stream were delivered: the block of the last one is in the lanes. -/
structure Delivered (s t : State) (out : List Byte) : Prop where
  rate : t.rate = s.rate
  position : ∃ k, t.A = permute^[k] s.A ∧ k * (s.rate.toNat / 8) + blockOffset t = blockOffset s + out.length ∧
    (k = 0 ∨ 0 < blockOffset t)
  bytes : out = streamSlice s.rate.toNat s.A (blockOffset s) out.length

theorem Delivered.refl (s : State) : Delivered s s [] :=
  ⟨rfl, ⟨0, rfl, by rw [Nat.zero_mul, Nat.zero_add]; rfl, .inl rfl⟩, rfl⟩

/-- Deliveries in a row are one delivery of the joined bytes. -/
theorem Delivered.trans {s u t : State} {out out' : List Byte} (hB : 0 < s.rate.toNat / 8) (h : Delivered s u out)
    (h' : Delivered u t out') : Delivered s t (out ++ out') := by
  obtain ⟨hrate, ⟨k, hA, hpos, hlazy⟩, hout⟩ := h
  obtain ⟨hrate', ⟨k', hA', hpos', hlazy'⟩, hout'⟩ := h'
  rw [hrate] at hpos' hout' hrate'
  refine ⟨hrate', ⟨k' + k, ?_, ?_, ?_⟩, ?_⟩
  · rw [hA', hA, Function.iterate_add_apply]
  · rw [List.length_append, Nat.add_mul]
    omega
  · obtain rfl | h0 := hlazy'
    · omega
    · exact .inr h0
  · rw [List.length_append, streamSlice_add, ← hout, ← hpos, ← streamSlice_iterate _ _ _ _ _ hB, ← hA, ← hout']

theorem SqueezeReady.blockBytes_pos {s : State} (h : SqueezeReady s) : 0 < s.rate.toNat / 8 := by
  have hpos := h.inv.positive
  omega

theorem blockOffset_add_left {s : State} (h : SqueezeReady s) :
    8 * blockOffset s + s.bitsForSqueezing.toNat = s.rate.toNat := by
  have hleft := h.inv.left
  have hbytes := h.inv.leftBytes
  have hrate := h.inv.rate_mod_eight
  rw [blockOffset]
  omega

/-- After at least one byte the lanes hold the block of the last byte, and `bits_for_squeezing` what is left of it. -/
theorem Delivered.last_block {s t : State} {out : List Byte} (h : Delivered s t out) (ht : SqueezeReady t)
    (hne : out.length ≠ 0) :
    let k := (blockOffset s + out.length - 1) / (s.rate.toNat / 8)
    t.A = permute^[k] s.A ∧
      t.bitsForSqueezing.toNat = 8 * ((k + 1) * (s.rate.toNat / 8) - (blockOffset s + out.length)) := by
  obtain ⟨hrate, ⟨k, hA, hpos, hlazy⟩, -⟩ := h
  have hleft := blockOffset_add_left ht
  have hrate8 := ht.inv.rate_mod_eight
  rw [hrate] at hleft hrate8
  have hin : 0 < blockOffset t := by
    obtain rfl | h0 := hlazy
    · omega
    · exact h0
  have hk : (blockOffset s + out.length - 1) / (s.rate.toNat / 8) = k := by
    rw [← hpos, Nat.div_eq_iff (by omega)]
    omega
  simp only [hk]
  refine ⟨hA, ?_⟩
  rw [Nat.add_mul, Nat.one_mul]
  omega

/-- After no byte nothing has moved. -/
theorem Delivered.nothing {s t : State} (h : Delivered s t []) (hs : SqueezeReady s) (ht : SqueezeReady t) :
    t.A = s.A ∧ t.bitsForSqueezing = s.bitsForSqueezing := by
  obtain ⟨hrate, ⟨k, hA, hpos, hlazy⟩, -⟩ := h
  have hleft := blockOffset_add_left ht
  have hleft' := blockOffset_add_left hs
  rw [hrate] at hleft
  obtain rfl : k = 0 := by
    obtain rfl | h0 := hlazy
    · rfl
    · by_contra hk
      have hblock : 1 * (s.rate.toNat / 8) ≤ k * (s.rate.toNat / 8) := Nat.mul_le_mul_right _ (by omega)
      rw [List.length_nil] at hpos
      omega
  rw [Nat.zero_mul, List.length_nil] at hpos
  refine ⟨by rw [hA, Function.iterate_zero, id_eq], BitVec.eq_of_toNat_eq ?_⟩
  omega

/-! ### One iteration (R175, R177) -/

theorem deliver_bitsForSqueezing (want : Nat) (s : State) :
    (deliver want s).bitsForSqueezing.toNat =
      s.bitsForSqueezing.toNat - min s.bitsForSqueezing.toNat (8 * want) := by
  have hlt := s.bitsForSqueezing.isLt
  exact (BitVec.toNat_ofNat _ _).trans (Nat.mod_eq_of_lt (by omega))

theorem squeezeReady_deliver {s : State} (h : SqueezeReady s) (want : Nat) : SqueezeReady (deliver want s) := by
  obtain ⟨⟨hsum, hlanes, hpos, hqueued, hleft, hbytes, -, hsqq, hblock, habove, hfrag⟩, hc, hsq⟩ := h
  have hleft' := deliver_bitsForSqueezing want s
  refine ⟨⟨hsum, hlanes, hpos, hqueued, ?_, ?_, fun h => ?_, hsqq, hblock, habove, hfrag⟩, hc, hsq⟩
  · rw [hleft', deliver_rate]; omega
  · rw [hleft']; omega
  · simp [hsq] at h

/-- The refill puts the next block into the queue. -/
theorem squeezeReady_refill {s : State} (h : SqueezeReady s) : SqueezeReady (refill s) := by
  obtain hz | hnz := eq_or_ne s.bitsForSqueezing 0
  · rw [refill, if_pos hz]
    obtain ⟨⟨hsum, hlanes, hpos, hqueued, -, -, -, hsqq, -, habove, hfrag⟩, hc, hsq⟩ := h
    have hQ := extractToQueue_Q_get (permuteState s)
    have hq : (extractToQueue (permuteState s)).bitsInQueue = 0 := hsqq hsq
    refine ⟨⟨hsum, hlanes, hpos, hqueued, ?_, ?_, fun h => ?_, hsqq, fun _ j hj => ?_, fun j hj => ?_, fun h => ?_⟩,
      hc, hsq⟩
    · rw [extractToQueue_bitsForSqueezing, extractToQueue_rate]
    · rw [extractToQueue_bitsForSqueezing, permuteState_rate]; omega
    · exact absurd (hsq.symm.trans h) (by decide)
    · exact (hQ j).trans ((if_pos hj).trans (bytesOfLanes_get _ _ _))
    · exact (hQ j).trans ((if_neg (Nat.not_lt.mpr hj)).trans (habove j hj))
    · exact absurd (by rw [hq]; rfl) h
  · rwa [refill, if_neg hnz]

/-- With bytes left, an iteration delivers some of them from the queue. -/
theorem delivered_deliver {s : State} (h : SqueezeReady s) (want : Nat) :
    Delivered s (deliver want s) (nextBytes want s) ∧
      (nextBytes want s).length = min (s.bitsForSqueezing.toNat / 8) want := by
  have hoff := blockOffset_add_left h
  have hoff' := blockOffset_add_left (squeezeReady_deliver h want)
  have hrate := h.inv.rate_le
  have hbytes := h.inv.leftBytes
  rw [deliver_bitsForSqueezing, deliver_rate] at hoff'
  have hlen : (nextBytes want s).length = min (s.bitsForSqueezing.toNat / 8) want := by
    rw [nextBytes, readQueue_length, ← blockOffset]
    omega
  refine ⟨⟨rfl, ⟨0, rfl, ?_, .inl rfl⟩, ?_⟩, hlen⟩
  · rw [Nat.zero_mul, hlen]
    omega
  · apply List.ext_getElem
    · rw [streamSlice_length]
    intro i hi _
    rw [hlen] at hi
    have hin : blockOffset s + i < s.rate.toNat / 8 := by omega
    have hbyte := h.inv.block h.squeezing ⟨blockOffset s + i, by omega⟩ hin
    simp only [streamSlice, List.getElem_map, List.getElem_range, streamByte_of_lt s.A hin (by omega), ← hbyte]
    simp [nextBytes, readQueue, blockOffset]

theorem refill_of_left {s : State} (h : s.bitsForSqueezing ≠ 0) : refill s = s := if_neg h

theorem refill_of_empty {s : State} (h : s.bitsForSqueezing = 0) : refill s = extractToQueue (permuteState s) := if_pos h

theorem refill_left_pos {s : State} (h : SqueezeReady s) : 0 < (refill s).bitsForSqueezing.toNat := by
  obtain hz | hnz := eq_or_ne s.bitsForSqueezing 0
  · rw [refill_of_empty hz, extractToQueue_bitsForSqueezing, permuteState_rate]
    exact h.inv.rate_pos
  · rw [refill_of_left hnz]
    exact Nat.pos_of_ne_zero fun h0 => hnz (BitVec.eq_of_toNat_eq h0)

/-- Bytes delivered after a refill follow those of the block before it. -/
theorem Delivered.of_refill {s t : State} {out : List Byte} (hs : SqueezeReady s) (hne : 0 < out.length)
    (h : Delivered (refill s) t out) : Delivered s t out := by
  obtain hz | hnz := eq_or_ne s.bitsForSqueezing 0
  · obtain ⟨hrate, ⟨k, hA, hpos, hlazy⟩, hout⟩ := h
    have hoff := blockOffset_add_left hs
    have hoff' := blockOffset_add_left (squeezeReady_refill hs)
    have hA' : (refill s).A = permute^[1] s.A := by rw [refill_of_empty hz, Function.iterate_one]; rfl
    have hfull : (refill s).bitsForSqueezing = s.rate := by
      rw [refill_of_empty hz, extractToQueue_bitsForSqueezing, permuteState_rate]
    rw [hz, BitVec.ofNat_eq_ofNat, BitVec.toNat_ofNat, Nat.zero_mod] at hoff
    rw [refill_rate, hfull] at hoff'
    have hstart : blockOffset (refill s) = 0 := by omega
    have hend : blockOffset s = s.rate.toNat / 8 := by omega
    rw [hstart, refill_rate] at hpos hout
    refine ⟨hrate.trans (refill_rate s), ⟨k + 1, ?_, ?_, .inr ?_⟩, ?_⟩
    · rw [hA, hA', Function.iterate_add_apply]
    · rw [Nat.add_mul, Nat.one_mul]
      omega
    · obtain rfl | h0 := hlazy
      · omega
      · exact h0
    · rw [hA', streamSlice_iterate _ _ _ _ _ hs.blockBytes_pos, Nat.one_mul, Nat.add_zero, ← hend] at hout
      exact hout
  · rwa [refill_of_left hnz] at h

/-- An iteration, the lazy refill before it included, delivers at least one byte and no more than wanted. -/
theorem delivered_iteration {s : State} (h : SqueezeReady s) {want : Nat} (hwant : want ≠ 0) :
    Delivered s (deliver want (refill s)) (nextBytes want (refill s)) ∧
      0 < (nextBytes want (refill s)).length ∧ (nextBytes want (refill s)).length ≤ want := by
  have hready := squeezeReady_refill h
  obtain ⟨hdel, hlen⟩ := delivered_deliver hready want
  have hbytes := hready.inv.leftBytes
  have hleft := refill_left_pos h
  have hpos : 0 < (nextBytes want (refill s)).length := by omega
  exact ⟨hdel.of_refill h hpos, hpos, by omega⟩

/-- The loop delivers the bytes wanted. -/
theorem delivered_squeezeLoop {fuel want : Nat} {s : State} (hs : SqueezeReady s) (hfuel : want ≤ fuel) :
    SqueezeReady (squeezeLoop fuel want s).2 ∧ Delivered s (squeezeLoop fuel want s).2 (squeezeLoop fuel want s).1 ∧
      (squeezeLoop fuel want s).1.length = want := by
  induction fuel generalizing want s with
  | zero =>
    obtain rfl : want = 0 := by omega
    rw [squeezeLoop_done]
    exact ⟨hs, .refl s, rfl⟩
  | succ fuel ih =>
    obtain rfl | hwant := eq_or_ne want 0
    · rw [squeezeLoop_done]
      exact ⟨hs, .refl s, rfl⟩
    obtain ⟨hchunk, hpos, hle⟩ := delivered_iteration hs hwant
    have hrest := ih (want := want - (nextBytes want (refill s)).length)
      (squeezeReady_deliver (squeezeReady_refill hs) want) (by omega)
    obtain ⟨hready, hdel, hlen⟩ := hrest
    rw [squeezeLoop_more fuel want s hwant]
    exact ⟨hready, hchunk.trans hs.blockBytes_pos hdel, by rw [List.length_append]; omega⟩

/-! ### The command -/

/-- Padding and switching leaves a fresh block to squeeze (R153). -/
theorem squeezeReady_padAndSwitch {s : State} (h : InvConfigured s) (hc : s.configured = true) :
    SqueezeReady (padAndSwitch s) := by
  obtain ⟨hq, hleft, hsq, hQ, -⟩ := padAndSwitchLeavesAFreshBlock s
  have hrate := padAndSwitch_rate s
  refine ⟨⟨?_, ?_, ?_, ?_, ?_, ?_, fun h => ?_, fun _ => hq, fun _ j hj => ?_, fun j hj => ?_, fun h => ?_⟩,
    (padAndSwitch_configured s).trans hc, hsq⟩
  · rw [hrate, padAndSwitch_capacity, h.sum]
  · rw [hrate, h.lanes]
  · rw [hrate]; exact h.positive
  · rw [hrate, hq]; exact h.rate_pos
  · rw [hrate, hleft]
  · rw [hleft]; exact h.rate_mod_eight
  · exact absurd (hsq.symm.trans h) (by decide)
  · rw [hQ, if_pos (by rwa [hrate] at hj)]; exact bytesOfLanes_get _ _ _
  · rw [hQ, if_neg (by rw [hrate] at hj; omega)]
  · exact absurd (by rw [hq]; rfl) h

theorem squeezeReady_enterSqueezing {s : State} (h : InvConfigured s) (hc : s.configured = true) :
    SqueezeReady (enterSqueezing s) := by
  obtain hsq | hsq := (Bool.eq_false_or_eq_true s.squeezing)
  · rw [enterSqueezing_of_squeezing hsq]
    exact ⟨h, hc, hsq⟩
  · rw [enterSqueezing_of_absorbing hsq]
    exact squeezeReady_padAndSwitch h hc

theorem blockOffset_padAndSwitch (s : State) : blockOffset (padAndSwitch s) = 0 := by
  obtain ⟨-, hleft, -⟩ := padAndSwitchLeavesAFreshBlock s
  rw [blockOffset, hleft, padAndSwitch_rate, Nat.sub_self, Nat.zero_div]

/-- `SQUEEZE` delivers the bytes asked for, from the squeezing phase on. -/
theorem exec_squeeze_delivered {s : State} (h : InvConfigured s) (hc : s.configured = true) (n : BitVec 60) :
    ∃ t out, exec (.squeeze n) s = .next t ∧ Answers s t ⟨.ok, out⟩ ∧ SqueezeReady t ∧
      Delivered (enterSqueezing s) t out ∧ out.length = n.toNat ∧ SameParameters s t ∧ SameInput s t := by
  obtain ⟨⟨hinv, hconf, hsq⟩, ⟨hdrate, hpos, hout⟩, hlen⟩ :=
    delivered_squeezeLoop (squeezeReady_enterSqueezing h hc) (le_refl n.toNat)
  obtain ⟨hrate, hcap, hconf', -, -, hcp, hhost, hdin, hresp⟩ := squeezeLoop_keeps n.toNat n.toNat (enterSqueezing s)
  refine ⟨_, _, exec_squeeze_of_configured hc n, ⟨?_, ?_⟩,
    ⟨invConfigured_of_sameEngine (sameEngine_complete _ _ _) hinv, hconf, hsq⟩, ⟨hdrate, hpos, hout⟩, hlen,
    ⟨?_, ?_, ?_⟩, ?_, ?_⟩
  · rw [complete_cp, hcp, enterSqueezing_cp]
  · rw [complete_responses, hresp, enterSqueezing_responses]
  · rw [complete_rate, hrate, enterSqueezing_rate]
  · rw [complete_capacity, hcap, enterSqueezing_capacity]
  · rw [complete_configured, hconf', enterSqueezing_configured]
  · rw [complete_host, hhost, enterSqueezing_host]
  · rw [complete_din, hdin, enterSqueezing_din]

/-- A list of `SQUEEZE` commands delivers one stretch of the stream, a payload each. -/
theorem runCommands_squeezes_delivered (ns : List (BitVec 60)) {s : State} (hs : SqueezeReady s) :
    ∃ t out rs, runCommands (ns.map Instr.squeeze) s = .next t ∧ SqueezeReady t ∧ Delivered s t out ∧
      out.length = (ns.map BitVec.toNat).sum ∧ t.responses = s.responses ++ rs ∧ rs.flatMap Response.payload = out ∧
      (∀ r ∈ rs, r.status = .ok) ∧ rs.length = ns.length := by
  induction ns generalizing s with
  | nil => exact ⟨s, [], [], rfl, hs, .refl s, rfl, (List.append_nil _).symm, rfl, by simp, rfl⟩
  | cons n ns ih =>
    obtain ⟨u, out, hexec, ⟨-, hresp⟩, hu, hdel, hlen, -⟩ := exec_squeeze_delivered hs.inv hs.configured n
    obtain ⟨t, out', rs, hrun, ht, hdel', hlen', hresp', hpay, hok, hcount⟩ := ih hu
    rw [enterSqueezing_of_squeezing hs.squeezing] at hdel
    refine ⟨t, out ++ out', ⟨.ok, out⟩ :: rs, ?_, ht, hdel.trans hs.blockBytes_pos hdel', ?_, ?_, ?_, ?_, ?_⟩
    · rw [List.map_cons, runCommands_cons hexec, hrun]
    · simp [hlen, hlen']
    · rw [hresp', hresp, List.append_assoc]; rfl
    · simp [hpay]
    · simpa using hok
    · simp [hcount]

end Sys2Proof.Machine
end

section
/-! The statements on `SQUEEZE` (43_sponge_commands.md section 3). -/

open Sys2Proof Sys2Proof.Machine

/-- Settles O40: one command is one delivery, whose last block stands in the lanes and the queue. -/
theorem squeezeReadsTheOutputStream : Obligations.SqueezeReadsTheOutputStream := by
  intro s n hinv hc u B o k
  have hs := hinv.configured hc
  have hu : SqueezeReady u := squeezeReady_enterSqueezing hs hc
  have hrate : u.rate = s.rate := enterSqueezing_rate s
  obtain ⟨t, out, hexec, hans, ht, hdel, hlen, hparams, hinput⟩ := exec_squeeze_delivered hs hc n
  change Delivered u t out at hdel
  have hoff : blockOffset u = o := by rw [blockOffset, hrate]
  have hbytes := hdel.bytes
  rw [hlen, hoff, hrate] at hbytes
  refine ⟨t, hexec, hbytes ▸ hans, ?_, fun hn => ?_, fun j => ?_, ht.squeezing, ht.inv.squeezing ht.squeezing, hparams,
    hinput⟩
  · rintro rfl
    cases hexec.symm.trans (exec_squeeze_zero hc)
    exact ⟨rfl, rfl, rfl, rfl, rfl, rfl, rfl, rfl⟩
  · have hlast := hdel.last_block ht (by rw [hlen]; exact fun h0 => hn (BitVec.eq_of_toNat_eq h0))
    simpa only [hlen, hoff, hrate] using hlast
  · have htrate : t.rate = s.rate := hparams.1.symm
    split
    next hj => rw [ht.inv.block ht.squeezing j (by rwa [htrate])]; exact (bytesOfLanes_get _ _ _).symm
    next hj => exact ht.inv.above j (by rw [htrate]; exact Nat.not_lt.mp hj)

/-- Settles O41: the commands run as from the padded state, where nothing of the first block is delivered yet. -/
theorem squeezesReadOneStream : Obligations.SqueezesReadOneStream := by
  intro s ns hinv hc hsq hne total S0 B
  have hs := squeezeReady_padAndSwitch (hinv.configured hc) hc
  have hrun : runCommands (ns.map Instr.squeeze) s = runCommands (ns.map Instr.squeeze) (padAndSwitch s) := by
    obtain ⟨n, ns, rfl⟩ := List.exists_cons_of_ne_nil hne
    rw [List.map_cons, runCommands, runCommands, exec_squeeze_padAndSwitch hc hsq]
  obtain ⟨t, out, rs, hexec, ht, hdel, hlen, hresp, hpay, hok, hcount⟩ := runCommands_squeezes_delivered ns hs
  rw [padAndSwitch_responses] at hresp
  have hnew : newResponses s t = rs := newResponses_eq hresp
  have hbytes := hdel.bytes
  rw [hlen, blockOffset_padAndSwitch, padAndSwitch_rate] at hbytes
  refine ⟨t, hrun.trans hexec, ?_⟩
  rw [hnew]
  refine ⟨hpay.trans hbytes, hok, hcount, fun h0 => ?_, fun h0 => ?_⟩
  · obtain rfl : out = [] := List.eq_nil_of_length_eq_zero (hlen.trans h0)
    obtain ⟨-, hleft, -⟩ := padAndSwitchLeavesAFreshBlock s
    obtain ⟨hA, hfull⟩ := hdel.nothing hs ht
    exact ⟨hA, hfull.trans hleft⟩
  · have hlast := hdel.last_block ht (by rw [hlen]; exact h0)
    simpa only [hlen, blockOffset_padAndSwitch, Nat.zero_add, padAndSwitch_rate] using hlast

end

section
/-! Commands and the host's side (10_state.md R40, R58; 43_sponge_commands.md R193): no command reads what the host has still
to present, `CP` or earlier responses, so equal engines answer alike. -/

namespace Sys2Proof.Machine

/-! ### The loops -/

theorem absorbBlock_withSide (block : List Byte) (s u : State) :
    absorbBlock block (s.withSide u) = (absorbBlock block s).withSide u := rfl

theorem flushFullQueue_withSide (s u : State) :
    flushFullQueue (s.withSide u) = (flushFullQueue s).withSide u := by
  rw [flushFullQueue, flushFullQueue, apply_ite (State.withSide · u)]
  rfl

theorem absorbPartial_withSide (rem : Nat) (data : List Byte) (s u : State) :
    absorbPartial rem data (s.withSide u) = (absorbPartial rem data s).withSide u := by
  have hfill (n : Nat) : flushFullQueue (fillQueue n data (s.withSide u)) =
      (flushFullQueue (fillQueue n data s)).withSide u := flushFullQueue_withSide (fillQueue n data s) u
  have hfit : bitsThatFit rem (s.withSide u) = bitsThatFit rem s := rfl
  simp only [absorbPartial, hfill, hfit]
  split <;> rfl

theorem absorbLoop_withSide (fuel rem : Nat) (data : List Byte) (s u : State) :
    absorbLoop fuel rem data (s.withSide u) = (absorbLoop fuel rem data s).withSide u := by
  induction fuel generalizing rem data s with
  | zero => rfl
  | succ fuel ih =>
    obtain rfl | hrem := eq_or_ne rem 0
    · rw [absorbLoop_done, absorbLoop_done]
    by_cases hblock : s.bitsInQueue = 0 ∧ s.rate.toNat ≤ rem
    · obtain ⟨hq, hge⟩ := hblock
      rw [absorbLoop_block fuel rem data s hrem hq hge, ← ih, ← absorbBlock_withSide]
      exact absorbLoop_block fuel rem data (s.withSide u) hrem hq hge
    · rw [absorbLoop_partial fuel rem data s hrem hblock, ← ih, ← absorbPartial_withSide]
      exact absorbLoop_partial fuel rem data (s.withSide u) hrem hblock

theorem refill_withSide (s u : State) : refill (s.withSide u) = (refill s).withSide u := by
  rw [refill, refill, apply_ite (State.withSide · u)]
  rfl

theorem squeezeLoop_withSide (fuel want : Nat) (s u : State) :
    squeezeLoop fuel want (s.withSide u) = ((squeezeLoop fuel want s).1, (squeezeLoop fuel want s).2.withSide u) := by
  induction fuel generalizing want s with
  | zero => rfl
  | succ fuel ih =>
    obtain rfl | hwant := eq_or_ne want 0
    · rw [squeezeLoop_done, squeezeLoop_done]
    have hchunk : nextBytes want ((refill s).withSide u) = nextBytes want (refill s) := rfl
    have hdeliver : deliver want ((refill s).withSide u) = (deliver want (refill s)).withSide u := rfl
    rw [squeezeLoop_more fuel want s hwant, squeezeLoop_more fuel want (s.withSide u) hwant, refill_withSide, hchunk,
      hdeliver, ih]

theorem padAndSwitch_withSide (s u : State) : padAndSwitch (s.withSide u) = (padAndSwitch s).withSide u := by
  obtain hlt | hle := Nat.lt_or_ge (s.bitsInQueue.toNat + 1) s.rate.toNat
  · rw [padAndSwitch_of_lt hlt]
    exact padAndSwitch_of_lt (s := s.withSide u) hlt
  · rw [padAndSwitch_of_le hle]
    exact padAndSwitch_of_le (s := s.withSide u) hle

theorem enterSqueezing_withSide (s u : State) : enterSqueezing (s.withSide u) = (enterSqueezing s).withSide u := by
  obtain hsq | hsq := Bool.eq_false_or_eq_true s.squeezing
  · rw [enterSqueezing_of_squeezing hsq]
    exact enterSqueezing_of_squeezing hsq
  · rw [enterSqueezing_of_absorbing hsq, ← padAndSwitch_withSide]
    exact enterSqueezing_of_absorbing hsq

/-! ### Every command -/

/-- A command completes on any host's side as on its own: the same response, and the same engine after it. -/
theorem exec_withSide {i : Instr} {s t : State} (h : exec i s = .next t) (u : State) :
    ∃ r : Response, Answers s t r ∧ SameInput s t ∧
      exec i (s.withSide u) = .next (complete r.status r.payload (t.withSide u)) := by
  cases i with
  | config r c =>
    obtain ⟨hok, rfl⟩ | ⟨hok, rfl⟩ := execConfig_cases h
    · exact ⟨_, ⟨rfl, rfl⟩, ⟨rfl, rfl⟩, exec_config_of_configOk hok _⟩
    · exact ⟨_, ⟨rfl, rfl⟩, ⟨rfl, rfl⟩, exec_config_of_not_configOk hok _⟩
  | absorb n d =>
    obtain ⟨hlen, ⟨hok, rfl⟩ | ⟨hok, rfl⟩⟩ := execAbsorb_cases h
    · obtain ⟨-, -, -, -, -, hcp, hhost, hdin, hresp⟩ := absorbLoop_keeps n.toNat n.toNat d s
      refine ⟨⟨.ok, []⟩, by simp [Answers, hcp, hresp], by simp [SameInput, hhost, hdin], ?_⟩
      refine (exec_absorb_of_allowed (s := s.withSide u) hlen hok).trans ?_
      rw [absorbLoop_withSide]
      rfl
    · exact ⟨_, ⟨rfl, rfl⟩, ⟨rfl, rfl⟩, exec_absorb_of_not_allowed (s := s.withSide u) hlen hok⟩
  | squeeze n =>
    obtain ⟨hok, rfl⟩ | ⟨hok, rfl⟩ := execSqueeze_cases h
    · obtain ⟨-, -, -, -, -, hcp, hhost, hdin, hresp⟩ := squeezeLoop_keeps n.toNat n.toNat (enterSqueezing s)
      refine ⟨⟨.ok, (squeezeLoop n.toNat n.toNat (enterSqueezing s)).1⟩, by simp [Answers, hcp, hresp],
        by simp [SameInput, hhost, hdin], ?_⟩
      refine (exec_squeeze_of_configured (s := s.withSide u) hok n).trans ?_
      rw [enterSqueezing_withSide, squeezeLoop_withSide]
      rfl
    · exact ⟨_, ⟨rfl, rfl⟩, ⟨rfl, rfl⟩, exec_squeeze_of_not_configured (s := s.withSide u) hok n⟩
  | reset =>
    obtain ⟨hok, rfl⟩ | ⟨hok, rfl⟩ := execReset_cases h
    · exact ⟨_, ⟨rfl, rfl⟩, ⟨rfl, rfl⟩, exec_reset_of_configured (s := s.withSide u) hok⟩
    · exact ⟨_, ⟨rfl, rfl⟩, ⟨rfl, rfl⟩, exec_reset_of_not_configured (s := s.withSide u) hok⟩
  | rdsr idx =>
    obtain ⟨v, hsome, rfl⟩ | ⟨hnone, rfl⟩ := execRdsr_cases h
    · exact ⟨_, ⟨rfl, rfl⟩, ⟨rfl, rfl⟩, exec_rdsr_of_some (s := s.withSide u) hsome⟩
    · exact ⟨_, ⟨rfl, rfl⟩, ⟨rfl, rfl⟩, exec_rdsr_of_none (s := s.withSide u) hnone⟩

/-- Equal engines answer a command alike and are equal again. -/
theorem exec_sameEngine {i : Instr} {s s' t : State} (hs : SameEngine s s') (h : exec i s = .next t) :
    ∃ r t', exec i s' = .next t' ∧ Answers s t r ∧ Answers s' t' r ∧ SameEngine t t' ∧ SameInput s t ∧
      SameInput s' t' := by
  obtain ⟨r, hans, hinput, hexec⟩ := exec_withSide h s'
  rw [← eq_withSide_of_sameEngine hs] at hexec
  exact ⟨r, _, hexec, hans, ⟨rfl, rfl⟩, sameEngine_withSide t s', hinput, rfl, rfl⟩

/-- Equal engines answer a run alike and are equal after it. -/
theorem runCommands_sameEngine {is : List Instr} {s s' t : State} (hs : SameEngine s s')
    (h : runCommands is s = .next t) :
    ∃ t' rs, runCommands is s' = .next t' ∧ t.responses = s.responses ++ rs ∧ t'.responses = s'.responses ++ rs ∧
      SameEngine t t' := by
  induction is generalizing s s' with
  | nil =>
    cases h
    exact ⟨s', [], rfl, (List.append_nil _).symm, (List.append_nil _).symm, hs⟩
  | cons i is ih =>
    rw [runCommands] at h
    split at h
    next u hexec =>
      obtain ⟨r, u', hexec', ⟨-, hr⟩, ⟨-, hr'⟩, hu, -⟩ := exec_sameEngine hs hexec
      obtain ⟨t', rs, hrun, hrs, hrs', ht⟩ := ih hu h
      refine ⟨t', r :: rs, (runCommands_cons hexec' is).trans hrun, ?_, ?_, ht⟩
      · rw [hrs, hr, List.append_assoc]; rfl
      · rw [hrs', hr', List.append_assoc]; rfl
    next => cases h
    next => cases h

/-! ### Clearing events (70_reset_and_hazards.md R233) -/

/-- What a cleared session leaves depends on the parameters alone. -/
theorem sameEngine_clearSession {s s' : State} (h : SameParameters s s') :
    SameEngine (clearSession s) (clearSession s') := by
  obtain ⟨hrate, hcap, hconf⟩ := h
  exact ⟨rfl, rfl, hrate, hcap, rfl, rfl, rfl, hconf⟩

theorem sameEngine_hardReset (s s' : State) : SameEngine (hardReset s) (hardReset s') :=
  ⟨rfl, rfl, rfl, rfl, rfl, rfl, rfl, rfl⟩

/-! ### Parameters (10_state.md R27, R28, R32) -/

/-- What a command does to the parameters: keeps them, or sets them to the operands of a legal `CONFIG`. -/
theorem exec_parameters_cases {i : Instr} {s t : State} (h : exec i s = .next t) :
    SameParameters s t ∨
      ∃ r c, i = .config r c ∧ configOk r c = true ∧ t.rate.toNat = r.toNat ∧ t.capacity.toNat = c.toNat ∧
        t.configured = true := by
  cases i with
  | config r c =>
    obtain ⟨hok, rfl⟩ | ⟨-, rfl⟩ := execConfig_cases h
    · obtain ⟨hrate, hcap⟩ := toNat_setWidth_of_configOk hok
      exact .inr ⟨r, c, rfl, hok, hrate, hcap, rfl⟩
    · exact .inl ⟨rfl, rfl, rfl⟩
  | absorb n d =>
    obtain ⟨-, ⟨-, rfl⟩ | ⟨-, rfl⟩⟩ := execAbsorb_cases h
    · obtain ⟨-, -, hparams, -⟩ := absorbKeeps_absorbLoop n.toNat n.toNat d s
      exact .inl hparams
    · exact .inl ⟨rfl, rfl, rfl⟩
  | squeeze n =>
    obtain ⟨-, rfl⟩ | ⟨-, rfl⟩ := execSqueeze_cases h
    · obtain ⟨hrate, hcap, hconf, -⟩ := squeezeLoop_keeps n.toNat n.toNat (enterSqueezing s)
      exact .inl (by simp [SameParameters, hrate, hcap, hconf])
    · exact .inl ⟨rfl, rfl, rfl⟩
  | reset =>
    obtain ⟨-, rfl⟩ | ⟨-, rfl⟩ := execReset_cases h
    · exact .inl ⟨rfl, rfl, rfl⟩
    · exact .inl ⟨rfl, rfl, rfl⟩
  | rdsr idx =>
    obtain ⟨v, -, rfl⟩ | ⟨-, rfl⟩ := execRdsr_cases h
    · exact .inl ⟨rfl, rfl, rfl⟩
    · exact .inl ⟨rfl, rfl, rfl⟩

/-- What a step does to the parameters: keeps them, clears them by hard reset, or runs a legal `CONFIG`. -/
theorem step_parameters_cases {s t : State} (h : step s = .next t) :
    SameParameters s t ∨ ((∃ rest, s.host = .hardReset :: rest) ∧ t.configured = false) ∨
      ((∃ w rest r c din, s.host = .word w :: rest ∧ decode w s.din = .command (.config r c) din ∧
        configOk r c = true ∧ t.rate.toNat = r.toNat ∧ t.capacity.toNat = c.toNat) ∧ t.configured = true) := by
  obtain rfl | ⟨rest, hhost, rfl⟩ | ⟨w, rest, -, -, rfl⟩ | ⟨w, rest, i, din, hhost, hdec, hexec⟩ := step_cases h
  · exact .inl ⟨rfl, rfl, rfl⟩
  · exact .inr (.inl ⟨⟨rest, hhost⟩, rfl⟩)
  · exact .inl ⟨rfl, rfl, rfl⟩
  · obtain hkeep | ⟨r, c, rfl, hok, hrate, hcap, hconf⟩ := exec_parameters_cases hexec
    · exact .inl hkeep
    · exact .inr (.inr ⟨⟨w, rest, r, c, din, hhost, hdec, hok, hrate, hcap⟩, hconf⟩)

/-! ### Completion (30_encoding.md R81, 60_exceptions.md R217) -/

theorem exec_absorb_of_short {n : BitVec 60} {data : List Byte} (h : data.length < ceil8 n.toNat) (s : State) :
    exec (.absorb n data) s = .refused .payloadTooShort := by
  rw [exec, execAbsorb, if_pos h]

/-- A well-formed command completes in every state. -/
theorem exec_of_wellFormed {i : Instr} (h : i.wellFormed = true) (s : State) : ∃ t, exec i s = .next t := by
  cases i with
  | config r c =>
    obtain hok | hok := Bool.eq_false_or_eq_true (configOk r c)
    · exact ⟨_, exec_config_of_configOk hok s⟩
    · exact ⟨_, exec_config_of_not_configOk hok s⟩
  | absorb n d =>
    have hlen : ceil8 n.toNat ≤ d.length := of_decide_eq_true h
    obtain hok | hok := Bool.eq_false_or_eq_true (absorbAllowed s)
    · exact ⟨_, exec_absorb_of_allowed hlen hok⟩
    · exact ⟨_, exec_absorb_of_not_allowed hlen hok⟩
  | squeeze n =>
    obtain hok | hok := Bool.eq_false_or_eq_true s.configured
    · exact ⟨_, exec_squeeze_of_configured hok n⟩
    · exact ⟨_, exec_squeeze_of_not_configured hok n⟩
  | reset =>
    obtain hok | hok := Bool.eq_false_or_eq_true s.configured
    · exact ⟨_, exec_reset_of_configured hok⟩
    · exact ⟨_, exec_reset_of_not_configured hok⟩
  | rdsr idx =>
    cases hreg : statusRegister idx s with
    | none => exact ⟨_, exec_rdsr_of_none hreg⟩
    | some v => exact ⟨_, exec_rdsr_of_some hreg⟩

/-! ### Waiting (70_reset_and_hazards.md R243) -/

theorem decode_encode_absorb_of_short {n : BitVec 60} {din : List Byte} (data : List Byte)
    (h : din.length < ceil8 n.toNat) : decode (encode (.absorb n data)).1 din = .waiting := by
  simp only [decode, decodeWord_encode_absorb, payloadLen_encode_absorb, if_neg (Nat.not_le.mpr h)]

theorem step_of_host_nil {s : State} (h : s.host = []) : step s = .next s := by
  simp only [step, fetch, h]

theorem step_of_decode_eq_waiting {s : State} {w : CmdWord} {rest : List HostEvent} (hhost : s.host = .word w :: rest)
    (hdec : decode w s.din = .waiting) : step s = .next s := by
  simp only [step, fetch, hhost, hdec]

theorem step_of_hardReset {s : State} {rest : List HostEvent} (hhost : s.host = .hardReset :: rest) :
    step s = .next (hardReset { s with host := rest }) := by
  simp only [step, fetch, hhost]

end Sys2Proof.Machine
end

section
/-! The statements on what commands and steps read and keep (10_state.md, 60_exceptions.md, 70_reset_and_hazards.md). -/

open Sys2Proof Sys2Proof.Machine

/-- Settles O47: the two states differ in the host's side only, which `exec` carries along. -/
theorem commandsDependOnTheEngineOnly : Obligations.CommandsDependOnTheEngineOnly :=
  fun _ _ _ _ => exec_sameEngine

/-- Settles O53: each event leaves equal engines, and equal engines answer a run alike. -/
theorem clearingEventsEraseThePast : Obligations.ClearingEventsEraseThePast := by
  intro s s' t t' v is hevent hrun
  have hclear : SameEngine t t' := by
    obtain ⟨r, c, hok, ht, ht'⟩ | ⟨hc, hparams, ht, ht'⟩ | ⟨rfl, rfl⟩ := hevent
    · cases ht.symm.trans (exec_config_of_configOk hok s)
      cases ht'.symm.trans (exec_config_of_configOk hok s')
      exact ⟨rfl, rfl, rfl, rfl, rfl, rfl, rfl, rfl⟩
    · have ⟨_, _, hconf⟩ := hparams
      cases ht.symm.trans (exec_reset_of_configured hc)
      cases ht'.symm.trans (exec_reset_of_configured (hconf.symm.trans hc))
      exact sameEngine_clearSession hparams
    · exact sameEngine_hardReset s s'
  obtain ⟨v', rs, hrun', hresp, hresp', hv⟩ := runCommands_sameEngine hclear hrun
  exact ⟨v', hrun', (newResponses_eq hresp).trans (newResponses_eq hresp').symm, hv⟩

/-- Settles O50: a step that does not keep the parameters is a hard reset, which clears `configured`, or a legal `CONFIG`,
which sets it. -/
theorem parametersChangeOnlyByConfig : Obligations.ParametersChangeOnlyByConfig := by
  intro s t h
  obtain hkeep | ⟨hreset, hclear⟩ | ⟨⟨w, rest, r, c, din, hhost, hdec, hok, hvalues⟩, hset⟩ := step_parameters_cases h
  · have ⟨_, _, hconf⟩ := hkeep
    refine ⟨fun hchange => absurd hkeep hchange, fun hs ht => ?_, fun hs ht => ?_⟩
    · cases hs.symm.trans (hconf.trans ht)
    · cases hs.symm.trans (hconf.trans ht)
  · exact ⟨fun _ => .inl hreset, fun _ ht => (by cases hclear.symm.trans ht), fun _ _ => hreset⟩
  · exact ⟨fun _ => .inr ⟨w, rest, r, c, din, hhost, hdec, hok, hvalues⟩,
      fun _ _ => ⟨w, rest, r, c, din, hhost, hdec, hok⟩, fun _ ht => (by cases hset.symm.trans ht)⟩

/-- Settles O51: what the two loops keep in every state, and `fail` keeps every field. -/
theorem absorbAndSqueezeFrames : Obligations.AbsorbAndSqueezeFrames := by
  refine ⟨fun s t n d h => ?_, fun s t n h => ?_⟩
  · obtain ⟨-, ⟨-, rfl⟩ | ⟨-, rfl⟩⟩ := execAbsorb_cases h
    · obtain ⟨hleft, hsq, hparams, hinput⟩ := absorbKeeps_absorbLoop n.toNat n.toNat d s
      exact ⟨hsq, hleft, hparams, hinput⟩
    · exact ⟨rfl, rfl, ⟨rfl, rfl, rfl⟩, rfl, rfl⟩
  · obtain ⟨-, rfl⟩ | ⟨-, rfl⟩ := execSqueeze_cases h
    · obtain ⟨hrate, hcap, hconf, hsq, hqueue, -, hhost, hdin, -⟩ := squeezeLoop_keeps n.toNat n.toNat (enterSqueezing s)
      refine ⟨by simp [SameParameters, hrate, hcap, hconf], by simp [SameInput, hhost, hdin], fun hs => ?_⟩
      rw [complete_squeezing, complete_bitsInQueue, hsq, hqueue, enterSqueezing_of_squeezing hs]
      exact ⟨hs, rfl⟩
    · exact ⟨⟨rfl, rfl, rfl⟩, ⟨rfl, rfl⟩, fun hs => ⟨hs, rfl⟩⟩

/-- Settles O35: the length of the payload is tested first, and every later branch completes. -/
theorem onlyIllFormedAbsorbIsRefused : Obligations.OnlyIllFormedAbsorbIsRefused :=
  ⟨fun s _ _ h => exec_absorb_of_short h s, fun s _ h => exec_of_wellFormed h s⟩

/-- Settles O6: the decoded command is the offer of `fetch`. -/
theorem stepRunsTheDecodedCommand : Obligations.StepRunsTheDecodedCommand :=
  fun _ _ _ _ _ => step_of_decode_eq_command

/-- Settles O7: nothing presented, and a word whose payload is not complete, are no offer. -/
theorem idleEngineWaits : Obligations.IdleEngineWaits :=
  ⟨fun _ => step_of_host_nil, fun _ _ data _ hhost hshort =>
    step_of_decode_eq_waiting hhost (decode_encode_absorb_of_short data hshort)⟩

/-- Settles O8: the strike is `hardReset` on the state without the event. -/
theorem hardResetClearsTheEngine : Obligations.HardResetClearsTheEngine :=
  fun _ _ hhost => ⟨_, step_of_hardReset hhost, ⟨rfl, rfl, rfl, rfl, rfl, rfl, rfl, rfl⟩, rfl, rfl, rfl, rfl⟩

end

section
/-! Padding (42_block_ops.md R150 to R155): `PAD_AND_SWITCH` absorbs the queued bits padded by pad10*1, and a message may be
padded after its complete blocks are absorbed. -/

namespace Sys2Proof.Machine

/-! ### pad10*1 (R154) -/

/-- What pad10*1 puts behind a message of `n` bits. -/
def padTail (rate n : Nat) : List Bool := true :: (List.replicate ((rate - (n + 2) % rate) % rate) false ++ [true])

theorem pad10star1_eq (rate : Nat) (M : List Bool) : pad10star1 rate M = M ++ padTail rate M.length := rfl

/-- The pad depends on where in its block the message ends. -/
theorem padTail_mod (rate n : Nat) : padTail rate (n % rate) = padTail rate n := by
  rw [padTail, padTail, Nat.mod_add_mod]

/-- Complete blocks may be absorbed before the padding. -/
theorem absorbBits_pad10star1 {rate : Nat} (hpos : 0 < rate) (h8 : rate % 8 = 0) (M : List Bool) (A : Lanes) :
    absorbBits rate A (pad10star1 rate M) =
      absorbBits rate (absorbBits rate A M) (pad10star1 rate (leftoverBits rate M)) := by
  obtain ⟨hA, -⟩ := absorbBits_append hpos h8 M (padTail rate M.length) A
  rw [pad10star1_eq, hA, pad10star1_eq, leftoverBits_length, padTail_mod]

/-- The pad of a message that leaves two bits or more of its block fills that block. -/
theorem padTail_of_lt {rate n : Nat} (h : n + 1 < rate) :
    padTail rate n = true :: (List.replicate (rate - (n + 2)) false ++ [true]) := by
  have hzeros : (rate - (n + 2) % rate) % rate = rate - (n + 2) := by
    obtain hlt | heq : n + 2 < rate ∨ rate = n + 2 := by omega
    · rw [Nat.mod_eq_of_lt hlt, Nat.mod_eq_of_lt (by omega)]
    · rw [← heq, Nat.mod_self, Nat.sub_zero, Nat.mod_self, Nat.sub_self]
  rw [padTail, hzeros]

/-- With one bit left the pad fills it and a further block. -/
theorem padTail_of_eq {rate n : Nat} (hrate : 2 ≤ rate) (h : n + 1 = rate) :
    padTail rate n = true :: (List.replicate (rate - 1) false ++ [true]) := by
  have hzeros : (rate - (n + 2) % rate) % rate = rate - 1 := by
    have hnext : n + 2 = 1 + rate := by omega
    rw [hnext, Nat.add_mod_right, Nat.mod_eq_of_lt (by omega : 1 < rate), Nat.mod_eq_of_lt (by omega)]
  rw [padTail, hzeros]

/-! ### The padded blocks in the queue (R151, R152) -/

theorem payloadBits_succ (n : Nat) (data : List Byte) :
    payloadBits (n + 1) data = payloadBits n data ++ [payloadBit data n] := by
  rw [payloadBits, List.range_succ, List.map_append]
  rfl

theorem payloadBits_zeros {n z : Nat} {data : List Byte} (h : ∀ i < z, payloadBit data (n + i) = false) :
    payloadBits (n + z) data = payloadBits n data ++ List.replicate z false := by
  induction z with
  | zero => simp
  | succ z ih =>
    rw [← Nat.add_assoc, payloadBits_succ, ih fun i hi => h i (by omega), h z (by omega), List.append_assoc,
      List.replicate_succ']

/-- The engine with a block of its own in the queue absorbs that block, read as bits. -/
theorem absorbQueue_withBlock_A {s : State} (hpos : 0 < s.rate.toNat) (h8 : s.rate.toNat % 8 = 0)
    (hle : s.rate.toNat ≤ 1600) (Q : Bytes200) :
    (absorbQueue { s with Q := Q }).A = absorbBits s.rate.toNat s.A (payloadBits s.rate.toNat Q.toList) := by
  have hlen : (payloadBits s.rate.toNat Q.toList).length = s.rate.toNat := payloadBits_length _ _
  have hrate : 8 * (s.rate.toNat / 8) = s.rate.toNat := by omega
  have hA := absorbQueue_A { s with Q := Q } hle
  simp only [hrate] at hA
  rw [absorbBits_of_ge _ hpos h8 hlen.ge, List.take_of_length_le hlen.le, List.drop_of_length_le hlen.le,
    absorbBits_of_lt _ hpos, hA]

/-- With two free bits or more, the padded queue is the queued bits and their pad (R151). -/
theorem payloadBits_padQueue {s : State} (hlt : s.bitsInQueue.toNat + 1 < s.rate.toNat) {Q : Bytes200}
    (hQ : ∀ b, b < s.rate.toNat → qbit Q b =
      if b < s.bitsInQueue.toNat then qbit s.Q b else b == s.bitsInQueue.toNat || b == s.rate.toNat - 1) :
    payloadBits s.rate.toNat Q.toList = queuedBits s ++ padTail s.rate.toNat s.bitsInQueue.toNat := by
  obtain ⟨z, hz⟩ : ∃ z, s.rate.toNat = s.bitsInQueue.toNat + 1 + z + 1 :=
    ⟨s.rate.toNat - (s.bitsInQueue.toNat + 2), by omega⟩
  have hmsg : payloadBits s.bitsInQueue.toNat Q.toList = queuedBits s :=
    payloadBits_congr fun k hk => (hQ k (by omega)).trans (if_pos hk)
  have hone : payloadBit Q.toList s.bitsInQueue.toNat = true := by
    rw [← qbit_eq_payloadBit, hQ _ (by omega)]
    simp
  have hzeros (i : Nat) (hi : i < z) : payloadBit Q.toList (s.bitsInQueue.toNat + 1 + i) = false := by
    rw [← qbit_eq_payloadBit, hQ _ (by omega), if_neg (by omega)]
    simp
    omega
  have hlast : payloadBit Q.toList (s.bitsInQueue.toNat + 1 + z) = true := by
    rw [← qbit_eq_payloadBit, hQ _ (by omega), if_neg (by omega)]
    simp
    omega
  have hz' : s.rate.toNat - (s.bitsInQueue.toNat + 2) = z := by omega
  rw [padTail_of_lt hlt, hz', hz, payloadBits_succ, payloadBits_zeros hzeros, payloadBits_succ, hmsg, hone, hlast]
  simp

/-- With one free bit, the first block is the queued bits and a 1, the second the rest of their pad (R152). -/
theorem payloadBits_padSpecial {s : State} (hrate : 2 ≤ s.rate.toNat) (hle : s.rate.toNat ≤ 1600)
    (hone : s.bitsInQueue.toNat + 1 = s.rate.toNat) {Q1 Q2 : Bytes200}
    (hQ1 : ∀ b, b < s.rate.toNat → qbit Q1 b = (qbit s.Q b || b == s.rate.toNat - 1))
    (hQ2 : ∀ b, b < 1600 → qbit Q2 b = (b == s.rate.toNat - 1)) :
    payloadBits s.rate.toNat Q1.toList ++ payloadBits s.rate.toNat Q2.toList =
      queuedBits s ++ padTail s.rate.toNat s.bitsInQueue.toNat := by
  have hmsg : payloadBits s.bitsInQueue.toNat Q1.toList = queuedBits s := by
    refine payloadBits_congr fun k hk => ?_
    rw [← qbit_eq_payloadBit, hQ1 k (by omega), ← qbit_eq_payloadBit]
    have hne : k ≠ s.rate.toNat - 1 := by omega
    simp [hne]
  have hfirst : payloadBit Q1.toList s.bitsInQueue.toNat = true := by
    rw [← qbit_eq_payloadBit, hQ1 _ (by omega), ← hone]
    simp
  have hzeros (i : Nat) (hi : i < s.bitsInQueue.toNat) : payloadBit Q2.toList (0 + i) = false := by
    rw [← qbit_eq_payloadBit, hQ2 _ (by omega)]
    simp
    omega
  have hlast : payloadBit Q2.toList s.bitsInQueue.toNat = true := by
    rw [← qbit_eq_payloadBit, hQ2 _ (by omega), ← hone]
    simp
  have hsecond : payloadBits s.bitsInQueue.toNat Q2.toList = List.replicate s.bitsInQueue.toNat false := by
    simpa using payloadBits_zeros hzeros
  rw [padTail_of_eq hrate hone, ← hone, payloadBits_succ, payloadBits_succ, hmsg, hfirst, hsecond, hlast]
  simp

/-- `PAD_AND_SWITCH` absorbs the queued bits, padded. -/
theorem padAndSwitch_A_eq_absorbBits {s : State} (hs : InvConfigured s) :
    (padAndSwitch s).A = absorbBits s.rate.toNat s.A (pad10star1 s.rate.toNat (queuedBits s)) := by
  have hpos := hs.rate_pos
  have h8 := hs.rate_mod_eight
  have hle := hs.rate_le
  have hrate := hs.positive
  have hqueued := hs.queued
  rw [pad10star1_eq, queuedBits_length]
  obtain hlt | hone : s.bitsInQueue.toNat + 1 < s.rate.toNat ∨ s.bitsInQueue.toNat + 1 = s.rate.toNat := by omega
  · obtain ⟨Q, hpad, hQ⟩ := generalPaddingSetsTwoBits s hs.lanes hle hlt
    rw [hpad, switchToSqueeze_A, absorbQueue_withBlock_A hpos h8 hle, payloadBits_padQueue hlt hQ]
  · obtain ⟨Q1, Q2, hpad, hQ1, hQ2⟩ := specialPaddingAbsorbsTwoBlocks s hs.lanes hrate hle hone
    have hlen : (payloadBits s.rate.toNat Q1.toList).length = s.rate.toNat := payloadBits_length _ _
    obtain ⟨hboth, -⟩ := absorbBits_append hpos h8 (payloadBits s.rate.toNat Q1.toList)
      (payloadBits s.rate.toNat Q2.toList) s.A
    rw [leftoverBits_of_ge hpos hlen.ge, List.drop_of_length_le hlen.le, leftoverBits_of_lt hpos, List.nil_append,
      payloadBits_padSpecial (by omega) hle hone hQ1 hQ2, ← absorbQueue_withBlock_A hpos h8 hle Q1] at hboth
    rw [hpad, switchToSqueeze_A, hboth]
    exact absorbQueue_withBlock_A (s := absorbQueue { s with Q := Q1 }) hpos h8 hle Q2

end Sys2Proof.Machine
end

section
/-! The whole engine: a session of commands from `CONFIG` to `SQUEEZE`, the invariant along every step (10_state.md R41), the
session protocol (43_sponge_commands.md R192), and stale queue bytes (10_state.md R26). -/

namespace Sys2Proof.Machine

/-! ### A session (00_scope.md R18) -/

theorem runCommands_append {is : List Instr} {s t : State} (h : runCommands is s = .next t) (js : List Instr) :
    runCommands (is ++ js) s = runCommands js t := by
  induction is generalizing s with
  | nil => cases h; rfl
  | cons i is ih =>
    rw [runCommands] at h
    split at h
    next u hexec => rw [List.cons_append, runCommands_cons hexec, ih h]
    next => cases h
    next => cases h

theorem messageBits_cons (x : BitVec 60 × List Byte) (xs : List (BitVec 60 × List Byte)) :
    messageBits (x :: xs) = payloadBits x.1.toNat x.2 ++ messageBits xs :=
  List.flatMap_cons

/-- A legal `CONFIG` leaves an engine that is ready to absorb. -/
theorem absorbReady_config {r c : BitVec 16} (h : configOk r c = true) (s : State) :
    AbsorbReady (complete .ok []
      { clearSession s with rate := r.setWidth 11, capacity := c.setWidth 11, configured := true }) := by
  obtain ⟨hsum, hlanes, hne⟩ := (configOk_iff r c).mp h
  obtain ⟨hrate, hcap⟩ := toNat_setWidth_of_configOk h
  refine ⟨⟨?_, ?_, ?_, ?_, ?_, rfl, fun _ => rfl, fun _ => rfl, nofun, fun j _ => zeroQueue_get _ _, ?_⟩, rfl, rfl, rfl⟩
  · simpa [hrate, hcap] using hsum
  · simpa [hrate] using hlanes
  · have hpos : 64 ≤ r.toNat := by omega
    simpa [hrate] using hpos
  · have hpos : 0 < r.toNat := by omega
    simpa [hrate] using hpos
  · simp
  · exact fun h0 => absurd rfl h0

/-- The `ABSORB` commands of a message of which only the last chunk may end within a byte absorb the message's bits. -/
theorem runCommands_absorbs_absorbed (chunks : List (BitVec 60 × List Byte)) {s : State} (hs : AbsorbReady s)
    (hlen : ∀ x ∈ chunks, ceil8 x.1.toNat ≤ x.2.length) (hbytes : ∀ x ∈ chunks.dropLast, x.1.toNat % 8 = 0) :
    ∃ t, runCommands (chunks.map fun x => .absorb x.1 x.2) s = .next t ∧ Absorbed s t (messageBits chunks) ∧
      AbsorbKeeps s t ∧ t.responses = s.responses ++ List.replicate chunks.length ⟨.ok, []⟩ := by
  induction chunks generalizing s with
  | nil =>
    exact ⟨s, rfl, .refl hs.alignedQueue, ⟨rfl, rfl, ⟨rfl, rfl, rfl⟩, rfl, rfl⟩, (List.append_nil _).symm⟩
  | cons x xs ih =>
    obtain ⟨u, hexec, ⟨-, hresp⟩, hM, hkeeps⟩ := exec_absorb_absorbed hs (hlen x List.mem_cons_self)
    have hurate : u.rate = s.rate := by
      obtain ⟨-, -, ⟨hrate, -⟩, -⟩ := hkeeps
      exact hrate.symm
    obtain rfl | hne := eq_or_ne xs []
    · refine ⟨u, (runCommands_cons hexec []), ?_, hkeeps, hresp⟩
      rw [messageBits_cons]
      simpa [messageBits] using hM
    · have hx : x.1.toNat % 8 = 0 := hbytes x (by rw [List.dropLast_cons_of_ne_nil hne]; exact List.mem_cons_self)
      have hu : AbsorbReady u := hM.absorbReady hs hkeeps (by rwa [payloadBits_length])
      obtain ⟨t, hrun, hM', hkeeps', hresp'⟩ := ih hu (fun y hy => hlen y (List.mem_cons_of_mem x hy))
        fun y hy => hbytes y (by rw [List.dropLast_cons_of_ne_nil hne]; exact List.mem_cons_of_mem x hy)
      refine ⟨t, ?_, ?_, ?_, ?_⟩
      · rw [List.map_cons, runCommands_cons hexec, hrun]
      · rw [messageBits_cons]
        exact hM.trans hs.alignedQueue hurate hM'
      · obtain ⟨hleft, hsq, ⟨hrate, hcap, hconf⟩, hhost, hdin⟩ := hkeeps
        obtain ⟨hleft', hsq', ⟨hrate', hcap', hconf'⟩, hhost', hdin'⟩ := hkeeps'
        exact ⟨hleft'.trans hleft, hsq'.trans hsq, ⟨hrate.trans hrate', hcap.trans hcap', hconf.trans hconf'⟩,
          hhost.trans hhost', hdin.trans hdin'⟩
      · rw [hresp', hresp, List.append_assoc, List.length_cons, List.replicate_succ]
        rfl

/-- Padding after an absorption completes the padding of all the bits. -/
theorem Absorbed.padAndSwitch_A {s t : State} {M : List Bool} (hM : Absorbed s t M) (hs : AbsorbReady s)
    (hkeeps : AbsorbKeeps s t) :
    (padAndSwitch t).A = absorbBits s.rate.toNat s.A (pad10star1 s.rate.toNat (queuedBits s ++ M)) := by
  have ht := hM.invConfigured hs.inv hs.absorbing hkeeps
  obtain ⟨-, -, ⟨hrate, -⟩, -⟩ := hkeeps
  rw [padAndSwitch_A_eq_absorbBits ht, ← hrate, hM.lanes, hM.queued,
    ← absorbBits_pad10star1 hs.inv.rate_pos hs.inv.rate_mod_eight]

theorem sponge_eq (rate : Nat) (M : List Bool) (n : Nat) :
    sponge rate M n = streamSlice rate (absorbBits rate (Vector.replicate 25 0) (pad10star1 rate M)) 0 n := rfl

/-! ### The invariant (R41) -/

theorem inv_of_configured {s : State} (hc : s.configured = true) (h : InvConfigured s) : Inv s :=
  ⟨fun _ => h, fun hc' => by cases hc.symm.trans hc'⟩

theorem inv_of_unconfigured {s : State} (hc : s.configured = false) (h : InvUnconfigured s) : Inv s :=
  ⟨fun hc' => (by cases hc.symm.trans hc'), fun _ => h⟩

theorem inv_hardReset (s : State) : Inv (hardReset s) :=
  inv_of_unconfigured rfl ⟨rfl, rfl, rfl, rfl, rfl, rfl, rfl⟩

/-- A cleared session is ready to absorb. -/
theorem absorbReady_clearSession {s : State} (h : InvConfigured s) (hc : s.configured = true) :
    AbsorbReady (clearSession s) := by
  refine ⟨?_, hc, rfl, rfl⟩
  exact ⟨h.sum, h.lanes, h.positive, h.rate_pos, Nat.zero_le _, rfl, fun _ => rfl, fun _ => rfl, nofun,
    fun j _ => zeroQueue_get _ _, fun h0 => absurd rfl h0⟩

theorem absorbReady_of_absorbAllowed {s : State} (hs : Inv s) (h : absorbAllowed s = true) : AbsorbReady s := by
  simp only [absorbAllowed, Bool.and_eq_true, beq_iff_eq, Bool.not_eq_true'] at h
  obtain ⟨⟨hc, hb⟩, hsq⟩ := h
  exact ⟨hs.configured hc, hc, hsq, hb⟩

/-- Every command keeps the invariant. -/
theorem exec_keeps_inv {i : Instr} {s t : State} (hs : Inv s) (h : exec i s = .next t) : Inv t := by
  cases i with
  | config r c =>
    obtain ⟨hok, rfl⟩ | ⟨-, rfl⟩ := execConfig_cases h
    · exact inv_of_configured rfl (absorbReady_config hok s).inv
    · exact inv_of_sameEngine (sameEngine_complete _ _ s) hs
  | absorb n d =>
    obtain ⟨hlen, ⟨hok, -⟩ | ⟨-, rfl⟩⟩ := execAbsorb_cases h
    · have hready := absorbReady_of_absorbAllowed hs hok
      obtain ⟨t', hexec, -, hM, hkeeps⟩ := exec_absorb_absorbed hready hlen
      cases h.symm.trans hexec
      have ⟨_, _, ⟨_, _, hconf⟩, _⟩ := hkeeps
      exact inv_of_configured (hconf.symm.trans hready.configured) (hM.invConfigured hready.inv hready.absorbing hkeeps)
    · exact inv_of_sameEngine (sameEngine_complete _ _ s) hs
  | squeeze n =>
    obtain ⟨hc, -⟩ | ⟨-, rfl⟩ := execSqueeze_cases h
    · obtain ⟨t', out, hexec, -, ht, -⟩ := exec_squeeze_delivered (hs.configured hc) hc n
      cases h.symm.trans hexec
      exact inv_of_configured ht.configured ht.inv
    · exact inv_of_sameEngine (sameEngine_complete _ _ s) hs
  | reset =>
    obtain ⟨hc, rfl⟩ | ⟨-, rfl⟩ := execReset_cases h
    · exact inv_of_sameEngine (sameEngine_complete _ _ _)
        (inv_of_configured (s := clearSession s) hc (absorbReady_clearSession (hs.configured hc) hc).inv)
    · exact inv_of_sameEngine (sameEngine_complete _ _ s) hs
  | rdsr idx =>
    obtain ⟨v, -, rfl⟩ | ⟨-, rfl⟩ := execRdsr_cases h
    · exact inv_of_sameEngine (sameEngine_complete _ _ s) hs
    · exact inv_of_sameEngine (sameEngine_complete _ _ s) hs

/-- What the host's side takes away is no part of the engine. -/
theorem inv_consume {s : State} (hs : Inv s) (host : List HostEvent) (din : List Byte) :
    Inv { s with host := host, din := din } :=
  inv_of_sameEngine (s := s) ⟨rfl, rfl, rfl, rfl, rfl, rfl, rfl, rfl⟩ hs

/-! ### The session protocol (R192) -/

theorem protocol_of_not_configured {s : State} (h : s.configured = false) : protocol s = .unconfigured := by
  simp [protocol, h]

theorem protocol_of_squeezing {s : State} (hc : s.configured = true) (hsq : s.squeezing = true) :
    protocol s = .squeezing := by
  simp [protocol, hc, hsq]

theorem protocol_of_absorbing {s : State} (hc : s.configured = true) (hsq : s.squeezing = false) :
    protocol s = if s.bitsInQueue.toNat % 8 = 0 then .absorbing else .fragment := by
  simp [protocol, hc, hsq]

theorem AbsorbReady.protocol {s : State} (h : AbsorbReady s) : protocol s = .absorbing := by
  rw [protocol_of_absorbing h.configured h.absorbing, if_pos h.aligned]

/-- Where the protocol says that `ABSORB` may be issued is where its preconditions hold. -/
theorem protocol_ne_absorbing {s : State} (h : absorbAllowed s = false) : protocol s ≠ .absorbing := by
  obtain hc | hb | hsq := (absorbAllowed_eq_false_iff s).mp h
  · simp [Machine.protocol, hc]
  · simp [Machine.protocol, hb, ite_eq_iff]
  · simp [Machine.protocol, hsq, ite_eq_iff]

theorem protocol_ne_unconfigured {s : State} (h : s.configured = true) : protocol s ≠ .unconfigured := by
  simp [Machine.protocol, h, ite_eq_iff]

/-! ### Stale queue bytes (R25, R26) -/

theorem sameUpToStale_of_sameEngine {s s' t t' : State} {r : Response} (hst : SameUpToStale s s')
    (ht : SameEngine t t') (hr : Answers s t r) (hr' : Answers s' t' r) (hin : SameInput s t)
    (hin' : SameInput s' t') : SameUpToStale t t' := by
  obtain ⟨-, -, -, -, -, -, -, hcp, ⟨hhost, hdin⟩, hresp, -⟩ := hst
  obtain ⟨hA, hQ, hrate, hcap, hqueue, hleft, hsq, hconf⟩ := ht
  obtain ⟨htcp, htresp⟩ := hr
  obtain ⟨htcp', htresp'⟩ := hr'
  obtain ⟨hthost, htdin⟩ := hin
  obtain ⟨hthost', htdin'⟩ := hin'
  refine ⟨hA, hrate, hcap, hqueue, hleft, hsq, hconf, ?_, ⟨?_, ?_⟩, ?_, fun _ _ => by rw [hQ], fun _ => hQ⟩
  · rw [htcp, htcp', hcp]
  · rw [← hthost, ← hthost', hhost]
  · rw [← htdin, ← htdin', hdin]
  · rw [htresp, htresp', hresp]

theorem sameUpToStale_complete {s s' : State} (h : SameUpToStale s s') (st : Status) (out : List Byte) :
    SameUpToStale (complete st out s) (complete st out s') := by
  obtain ⟨hA, hrate, hcap, hqueue, hleft, hsq, hconf, hcp, hinput, hresp, hbits, hsame⟩ := h
  exact ⟨hA, hrate, hcap, hqueue, hleft, hsq, hconf, congrArg (· + 1) hcp, hinput, congrArg (· ++ _) hresp, hbits, hsame⟩

/-- A cleared session has no stale bytes. -/
theorem sameUpToStale_clearSession {s s' : State} (h : SameUpToStale s s') :
    SameUpToStale (clearSession s) (clearSession s') := by
  obtain ⟨-, hrate, hcap, -, -, -, hconf, hcp, hinput, hresp, -⟩ := h
  exact ⟨rfl, hrate, hcap, rfl, rfl, rfl, hconf, hcp, hinput, hresp, fun _ _ => rfl, fun _ => rfl⟩

theorem sameUpToStale_setParameters {s s' : State} (h : SameUpToStale s s') (rate cap : Cursor) (conf : Bool) :
    SameUpToStale { s with rate := rate, capacity := cap, configured := conf }
      { s' with rate := rate, capacity := cap, configured := conf } := by
  obtain ⟨hA, -, -, hqueue, hleft, hsq, -, hrest⟩ := h
  exact ⟨hA, rfl, rfl, hqueue, hleft, hsq, rfl, hrest⟩

/-- No status register shows the queue. -/
theorem statusRegister_congr {s s' : State} (h : SameUpToStale s s') (idx : BitVec 8) :
    statusRegister idx s = statusRegister idx s' := by
  obtain ⟨hA, hrate, hcap, hqueue, hleft, hsq, hconf, -⟩ := h
  simp only [statusRegister, ctrlWord, hA, hrate, hcap, hqueue, hleft, hsq, hconf]

theorem absorbAllowed_congr {s s' : State} (h : SameUpToStale s s') : absorbAllowed s = absorbAllowed s' := by
  obtain ⟨-, -, -, hqueue, -, hsq, hconf, -⟩ := h
  rw [absorbAllowed, absorbAllowed, hqueue, hsq, hconf]

theorem queuedBits_eq_of_sameUpToStale {s s' : State} (h : SameUpToStale s s') : queuedBits s = queuedBits s' := by
  obtain ⟨-, -, -, hqueue, -, -, -, -, -, -, hbits, -⟩ := h
  exact queuedBits_congr hqueue hbits

/-- The same bits absorbed leave the same lanes and the same queued bits. -/
theorem sameUpToStale_of_absorbed {s s' t t' : State} {M : List Bool} {r : Response} (hst : SameUpToStale s s')
    (hsq : s.squeezing = false) (hM : Absorbed s t M) (hM' : Absorbed s' t' M) (hkeeps : AbsorbKeeps s t)
    (hkeeps' : AbsorbKeeps s' t') (hr : Answers s t r) (hr' : Answers s' t' r) : SameUpToStale t t' := by
  have hbits := queuedBits_eq_of_sameUpToStale hst
  obtain ⟨hA, hrate, hcap, -, hleft, hsq', hconf, hcp, ⟨hhost, hdin⟩, hresp, -⟩ := hst
  have hqueued : queuedBits t = queuedBits t' := by rw [hM.queued, hM'.queued, hbits, hrate]
  have hlanes : t.A = t'.A := by rw [hM.lanes, hM'.lanes, hbits, hrate, hA]
  have hcount : t.bitsInQueue = t'.bitsInQueue :=
    BitVec.eq_of_toNat_eq (by rw [← queuedBits_length, ← queuedBits_length, hqueued])
  obtain ⟨htleft, htsq, ⟨htrate, htcap, htconf⟩, hthost, htdin⟩ := hkeeps
  obtain ⟨htleft', htsq', ⟨htrate', htcap', htconf'⟩, hthost', htdin'⟩ := hkeeps'
  obtain ⟨htcp, htresp⟩ := hr
  obtain ⟨htcp', htresp'⟩ := hr'
  refine ⟨hlanes, ?_, ?_, hcount, ?_, ?_, ?_, ?_, ⟨?_, ?_⟩, ?_, fun p hp => ?_, fun h => ?_⟩
  · rw [← htrate, ← htrate', hrate]
  · rw [← htcap, ← htcap', hcap]
  · rw [htleft, htleft', hleft]
  · rw [htsq, htsq', hsq']
  · rw [← htconf, ← htconf', hconf]
  · rw [htcp, htcp', hcp]
  · rw [← hthost, ← hthost', hhost]
  · rw [← htdin, ← htdin', hdin]
  · rw [htresp, htresp', hresp]
  · rw [← getD_queuedBits hp, ← getD_queuedBits (hcount ▸ hp), hqueued]
  · rw [htsq, hsq] at h
    cases h

/-- Padding reads the queued bits alone and leaves no stale bytes. -/
theorem sameEngine_padAndSwitch {s s' : State} (h : SameUpToStale s s') (hs : InvConfigured s) (hs' : InvConfigured s') :
    SameEngine (padAndSwitch s) (padAndSwitch s') := by
  obtain ⟨hq, hleft, hsq, hQ, -⟩ := padAndSwitchLeavesAFreshBlock s
  obtain ⟨hq', hleft', hsq', hQ', -⟩ := padAndSwitchLeavesAFreshBlock s'
  have hbits := queuedBits_eq_of_sameUpToStale h
  obtain ⟨hA, hrate, hcap, -, -, -, hconf, -⟩ := h
  have hlanes : (padAndSwitch s).A = (padAndSwitch s').A := by
    rw [padAndSwitch_A_eq_absorbBits hs, padAndSwitch_A_eq_absorbBits hs', hA, hrate, hbits]
  have hqueue : (padAndSwitch s).Q = (padAndSwitch s').Q := by
    ext1 j hj
    have hbyte := hQ' ⟨j, hj⟩
    rw [← hlanes, ← hrate] at hbyte
    exact (hQ ⟨j, hj⟩).trans hbyte.symm
  exact ⟨hlanes, hqueue, by simp [hrate], by simp [hcap], hq.trans hq'.symm, hleft.trans (hrate.trans hleft'.symm),
    hsq.trans hsq'.symm, by simp [hconf]⟩

/-- Entering the squeezing phase leaves equal engines. -/
theorem sameEngine_enterSqueezing {s s' : State} (h : SameUpToStale s s') (hs : InvConfigured s)
    (hs' : InvConfigured s') : SameEngine (enterSqueezing s) (enterSqueezing s') := by
  have ⟨hA, hrate, hcap, hqueue, hleft, hsq, hconf, _, _, _, _, hQ⟩ := h
  obtain hsqT | hsqF := Bool.eq_false_or_eq_true s.squeezing
  · rw [enterSqueezing_of_squeezing hsqT, enterSqueezing_of_squeezing (hsq ▸ hsqT)]
    exact ⟨hA, hQ hsqT, hrate, hcap, hqueue, hleft, hsq, hconf⟩
  · rw [enterSqueezing_of_absorbing hsqF, enterSqueezing_of_absorbing (hsq ▸ hsqF)]
    exact sameEngine_padAndSwitch h hs hs'

/-- `SQUEEZE` may as well be issued after the entry into the squeezing phase. -/
theorem exec_squeeze_enterSqueezing {s : State} (h : s.configured = true) (n : BitVec 60) :
    exec (.squeeze n) s = exec (.squeeze n) (enterSqueezing s) := by
  rw [exec_squeeze_of_configured h, exec_squeeze_of_configured ((enterSqueezing_configured s).trans h),
    enterSqueezing_of_squeezing (enterSqueezing_squeezing s)]

theorem sameUpToStale_squeeze {s s' t : State} {n : BitVec 60} (hst : SameUpToStale s s') (hs : Inv s) (hs' : Inv s')
    (hc : s.configured = true) (h : exec (.squeeze n) s = .next t) :
    ∃ t', exec (.squeeze n) s' = .next t' ∧ SameUpToStale t t' := by
  have ⟨_, _, _, _, _, _, hconf, _⟩ := hst
  have hc' : s'.configured = true := hconf.symm.trans hc
  rw [exec_squeeze_enterSqueezing hc] at h
  obtain ⟨r, t', hexec, ⟨hcp, hresp⟩, ⟨hcp', hresp'⟩, ht, ⟨hhost, hdin⟩, hhost', hdin'⟩ :=
    exec_sameEngine (sameEngine_enterSqueezing hst (hs.configured hc) (hs'.configured hc')) h
  simp only [enterSqueezing_cp, enterSqueezing_responses, enterSqueezing_host, enterSqueezing_din]
    at hcp hresp hcp' hresp' hhost hdin hhost' hdin'
  rw [exec_squeeze_enterSqueezing hc']
  exact ⟨t', hexec, sameUpToStale_of_sameEngine hst ht ⟨hcp, hresp⟩ ⟨hcp', hresp'⟩ ⟨hhost, hdin⟩ ⟨hhost', hdin'⟩⟩

end Sys2Proof.Machine
end

section
/-! The statements on the whole engine (10_state.md, 43_sponge_commands.md). -/

open Sys2Proof Sys2Proof.Machine

/-- Settles O42: the `ABSORB` commands absorb the message's bits from the zero state, and the padding of what they leave
queued completes the padding of the message. -/
theorem engineComputesTheSponge : Obligations.EngineComputesTheSponge := by
  intro s r c chunks n hok hlen hbytes
  have hs := absorbReady_config hok s
  have hconfig := exec_config_of_configOk hok s
  obtain ⟨hrate, -⟩ := toNat_setWidth_of_configOk hok
  obtain ⟨t, hrun, hM, hkeeps, hresp⟩ := runCommands_absorbs_absorbed chunks hs hlen hbytes
  have hlanes := hM.padAndSwitch_A hs hkeeps
  have ht := hM.invConfigured hs.inv hs.absorbing hkeeps
  obtain ⟨-, htsq, ⟨htrate, -, htconf⟩, -⟩ := hkeeps
  obtain ⟨v, out, hsqueeze, ⟨-, hvresp⟩, -, hdel, hout, -⟩ :=
    exec_squeeze_delivered ht (htconf.symm.trans hs.configured) n
  have hbytes := hdel.bytes
  rw [enterSqueezing_of_absorbing (htsq.trans hs.absorbing), blockOffset_padAndSwitch, padAndSwitch_rate, ← htrate,
    hlanes, hout, queuedBits_eq_nil rfl, List.nil_append, complete_rate, hrate] at hbytes
  refine ⟨v, ?_, ?_⟩
  · rw [List.cons_append, runCommands_cons hconfig, runCommands_append hrun, runCommands_cons hsqueeze, runCommands]
  · refine newResponses_eq ?_
    rw [hvresp, hresp, hbytes, sponge_eq, List.replicate_succ, complete_responses]
    simp

/-- Settles O43: hard reset leaves every field as the unconfigured case asks. -/
theorem invariantHoldsAtReset : Obligations.InvariantHoldsAtReset := inv_hardReset State.reset

/-- Settles O44: a step is a command, or leaves the engine alone, or resets it. -/
theorem stepKeepsTheInvariant : Obligations.StepKeepsTheInvariant := by
  intro s t hs h
  obtain rfl | ⟨rest, -, rfl⟩ | ⟨w, rest, -, -, rfl⟩ | ⟨w, rest, i, din, -, -, hexec⟩ := step_cases h
  · exact hs
  · exact inv_hardReset _
  · exact inv_of_sameEngine (sameEngine_complete _ _ _) (inv_consume hs rest s.din)
  · exact exec_keeps_inv (inv_consume hs rest din) hexec

/-- Settles O52: what a command reads of the queue is the queued bits, or the whole of it while squeezing. -/
theorem staleQueueBytesAreUnobservable : Obligations.StaleQueueBytesAreUnobservable := by
  intro s s' t i hs hs' hst h
  have ⟨_, _, _, _, _, _, hconf, _⟩ := hst
  cases i with
  | config r c =>
    obtain ⟨hok, rfl⟩ | ⟨hok, rfl⟩ := execConfig_cases h
    · exact ⟨_, exec_config_of_configOk hok s',
        sameUpToStale_complete (sameUpToStale_setParameters (sameUpToStale_clearSession hst) _ _ _) _ _⟩
    · exact ⟨_, exec_config_of_not_configOk hok s', sameUpToStale_complete hst _ _⟩
  | absorb n d =>
    obtain ⟨hlen, ⟨hok, -⟩ | ⟨hok, rfl⟩⟩ := execAbsorb_cases h
    · have hready := absorbReady_of_absorbAllowed hs hok
      have hready' := absorbReady_of_absorbAllowed hs' ((absorbAllowed_congr hst).symm.trans hok)
      obtain ⟨u, hexec, hans, hM, hkeeps⟩ := exec_absorb_absorbed hready hlen
      obtain ⟨u', hexec', hans', hM', hkeeps'⟩ := exec_absorb_absorbed hready' hlen
      cases h.symm.trans hexec
      exact ⟨u', hexec', sameUpToStale_of_absorbed hst hready.absorbing hM hM' hkeeps hkeeps' hans hans'⟩
    · exact ⟨_, exec_absorb_of_not_allowed hlen ((absorbAllowed_congr hst).symm.trans hok),
        sameUpToStale_complete hst _ _⟩
  | squeeze n =>
    obtain ⟨hc, -⟩ | ⟨hc, rfl⟩ := execSqueeze_cases h
    · exact sameUpToStale_squeeze hst hs hs' hc h
    · exact ⟨_, exec_squeeze_of_not_configured (hconf.symm.trans hc) n, sameUpToStale_complete hst _ _⟩
  | reset =>
    obtain ⟨hc, rfl⟩ | ⟨hc, rfl⟩ := execReset_cases h
    · exact ⟨_, exec_reset_of_configured (hconf.symm.trans hc),
        sameUpToStale_complete (sameUpToStale_clearSession hst) _ _⟩
    · exact ⟨_, exec_reset_of_not_configured (hconf.symm.trans hc), sameUpToStale_complete hst _ _⟩
  | rdsr idx =>
    obtain ⟨v, hsome, rfl⟩ | ⟨hnone, rfl⟩ := execRdsr_cases h
    · exact ⟨_, exec_rdsr_of_some ((statusRegister_congr hst idx).symm.trans hsome), sameUpToStale_complete hst _ _⟩
    · exact ⟨_, exec_rdsr_of_none ((statusRegister_congr hst idx).symm.trans hnone), sameUpToStale_complete hst _ _⟩

/-- Settles O48: each command that is allowed leads where its effect on the flags and the queue does, and one that fails
leaves the state where it is. -/
theorem protocolTransitions : Obligations.ProtocolTransitions := by
  intro s t hs
  refine ⟨fun r c h => ?_, fun n d h => ?_, fun n h => ?_, fun h => ?_, fun idx h => ?_⟩
  · obtain ⟨hok, rfl⟩ | ⟨hok, rfl⟩ := execConfig_cases h
    · rw [if_pos hok]
      exact (absorbReady_config hok s).protocol
    · rw [if_neg (ne_true_of_eq_false hok)]
      rfl
  · obtain ⟨hlen, ⟨hok, -⟩ | ⟨hok, rfl⟩⟩ := execAbsorb_cases h
    · have hready := absorbReady_of_absorbAllowed hs hok
      obtain ⟨t', hexec, -, hM, -, hsq, ⟨-, -, hconf⟩, -⟩ := exec_absorb_absorbed hready hlen
      cases h.symm.trans hexec
      have hqueue := hM.bitsInQueue_mod_eight hready
      rw [payloadBits_length] at hqueue
      rw [protocol_of_absorbing (hconf.symm.trans hready.configured) (hsq.trans hready.absorbing), hqueue,
        hready.protocol]
      simp [ite_not]
    · rw [if_neg fun ⟨habs, _⟩ => protocol_ne_absorbing hok habs]
      rfl
  · obtain ⟨hc, -⟩ | ⟨hc, rfl⟩ := execSqueeze_cases h
    · obtain ⟨t', out, hexec, -, ht, -⟩ := exec_squeeze_delivered (hs.configured hc) hc n
      cases h.symm.trans hexec
      rw [if_neg (protocol_ne_unconfigured hc)]
      exact protocol_of_squeezing ht.configured ht.squeezing
    · rw [if_pos (protocol_of_not_configured hc)]
      exact protocol_of_not_configured (s := fail _ s) hc
  · obtain ⟨hc, rfl⟩ | ⟨hc, rfl⟩ := execReset_cases h
    · rw [if_neg (protocol_ne_unconfigured hc)]
      exact (absorbReady_clearSession (hs.configured hc) hc).protocol
    · rw [if_pos (protocol_of_not_configured hc)]
      exact protocol_of_not_configured (s := fail _ s) hc
  · obtain ⟨v, -, rfl⟩ | ⟨-, rfl⟩ := execRdsr_cases h
    · rfl
    · rfl

end

section
/-! Encoding and decoding (30_encoding.md R82 to R92) are inverse: the fields of an encoded word, and a word put together
from its fields. -/

namespace Sys2Proof

/-! ### The fields of an encoded word (R83 to R88) -/

theorem fieldRate_encode_config (r c : BitVec 16) : fieldRate (encode (.config r c)).1 = r := by
  rw [fieldRate, encode, configMatch]
  ext i hi
  interval_cases i <;> simp

theorem fieldCap_encode_config (r c : BitVec 16) : fieldCap (encode (.config r c)).1 = c := by
  rw [fieldCap, encode, configMatch]
  ext i hi
  interval_cases i <;> simp

theorem fieldLen_encode_squeeze (n : BitVec 60) : fieldLen (encode (.squeeze n)).1 = n := by
  rw [fieldLen, encode, squeezeMatch]
  ext i hi
  interval_cases i <;> simp

theorem fieldIdx_encode_rdsr (idx : BitVec 8) : fieldIdx (encode (.rdsr idx)).1 = idx := by
  rw [fieldIdx, encode, rdsrMatch]
  ext i hi
  interval_cases i <;> simp

/-! ### Decoding by the row -/

theorem decodeWord_of_config_row {w : CmdWord} (h : rowMatches configMask configMatch w = true) (payload : List Byte) :
    decodeWord w payload = some (.config (fieldRate w) (fieldCap w)) := by
  rw [decodeWord, if_pos h]

theorem decodeWord_of_squeeze_row {w : CmdWord} (h : rowMatches squeezeMask squeezeMatch w = true)
    (payload : List Byte) : decodeWord w payload = some (.squeeze (fieldLen w)) := by
  have hopc := (rowMatches_squeeze_iff w).mp h
  simp [decodeWord, hopc]

theorem decodeWord_of_reset_row {w : CmdWord} (h : rowMatches resetMask resetMatch w = true) (payload : List Byte) :
    decodeWord w payload = some .reset := by
  obtain ⟨hopc, hzero⟩ := (rowMatches_reset_iff w).mp h
  simp [decodeWord, hopc, hzero]

theorem decodeWord_of_rdsr_row {w : CmdWord} (h : rowMatches rdsrMask rdsrMatch w = true) (payload : List Byte) :
    decodeWord w payload = some (.rdsr (fieldIdx w)) := by
  obtain ⟨hopc, hzero⟩ := (rowMatches_rdsr_iff w).mp h
  simp [decodeWord, hopc, hzero]

/-- A word with no payload of its own is decoded at once and takes nothing from `DIN`. -/
theorem decode_of_no_payload {w : CmdWord} {i : Instr} (hopc : fieldOpc w ≠ 2) (h : decodeWord w [] = some i)
    (din : List Byte) : decode w din = .command i din := by
  have hlen : payloadLen w = 0 := by rw [payloadLen_eq, if_neg hopc]
  simp [decode, hlen, h]

theorem decode_encode {i : Instr} (h : i.wellFormed = true) (rest : List Byte) :
    decode (encode i).1 ((encode i).2 ++ rest) = .command i.trim rest := by
  cases i with
  | config r c =>
    have hrow : rowMatches configMask configMatch (encode (.config r c)).1 = true := Laws.EncodesItsRow.config r c
    obtain ⟨hopc, -⟩ := (rowMatches_config_iff _).mp hrow
    refine decode_of_no_payload (by rw [hopc]; decide) ?_ rest
    rw [decodeWord_of_config_row hrow, fieldRate_encode_config, fieldCap_encode_config, Instr.trim]
  | absorb n data => exact decode_encode_absorb (of_decide_eq_true h) rest
  | squeeze n =>
    have hrow : rowMatches squeezeMask squeezeMatch (encode (.squeeze n)).1 = true := Laws.EncodesItsRow.squeeze n
    refine decode_of_no_payload (by rw [(rowMatches_squeeze_iff _).mp hrow]; decide) ?_ rest
    rw [decodeWord_of_squeeze_row hrow, fieldLen_encode_squeeze, Instr.trim]
  | reset =>
    have hrow : rowMatches resetMask resetMatch (encode .reset).1 = true := Laws.EncodesItsRow.reset
    obtain ⟨hopc, -⟩ := (rowMatches_reset_iff _).mp hrow
    refine decode_of_no_payload (by rw [hopc]; decide) ?_ rest
    rw [decodeWord_of_reset_row hrow, Instr.trim]
  | rdsr idx =>
    have hrow : rowMatches rdsrMask rdsrMatch (encode (.rdsr idx)).1 = true := Laws.EncodesItsRow.rdsr idx
    obtain ⟨hopc, -⟩ := (rowMatches_rdsr_iff _).mp hrow
    refine decode_of_no_payload (by rw [hopc]; decide) ?_ rest
    rw [decodeWord_of_rdsr_row hrow, fieldIdx_encode_rdsr, Instr.trim]

/-! ### A word put together from its fields -/

/-- A word that matches a row is the row's fixed bits and its own bits outside the mask. -/
theorem eq_or_of_rowMatches {mask pattern w : CmdWord} (h : rowMatches mask pattern w = true) :
    pattern ||| (w &&& ~~~mask) = w := by
  rw [← eq_of_beq h]
  ext i hi
  cases hbit : mask[i] <;> simp [hbit]

theorem encode_config_fields {w : CmdWord} (h : rowMatches configMask configMatch w = true) :
    (encode (.config (fieldRate w) (fieldCap w))).1 = w := by
  have hfields : (fieldCap w).setWidth 64 <<< 16 ||| (fieldRate w).setWidth 64 = w &&& ~~~configMask := by
    rw [fieldCap, fieldRate, configMask]
    ext i hi
    interval_cases i <;> simp
  rw [encode, BitVec.or_assoc, hfields, eq_or_of_rowMatches h]

/-- The `LEN` field is the 60 bits below the opcode. -/
theorem setWidth_fieldLen (w : CmdWord) : (fieldLen w).setWidth 64 = w &&& ~~~0xF000000000000000 := by
  rw [fieldLen]
  ext i hi
  interval_cases i <;> simp

theorem setWidth_fieldIdx (w : CmdWord) : (fieldIdx w).setWidth 64 = w &&& ~~~rdsrMask := by
  rw [fieldIdx, rdsrMask]
  ext i hi
  interval_cases i <;> simp

theorem encode_absorb_fields {w : CmdWord} (h : rowMatches absorbMask absorbMatch w = true) (payload : List Byte) :
    (encode (.absorb (fieldLen w) payload)).1 = w := by
  rw [encode, setWidth_fieldLen]
  exact eq_or_of_rowMatches h

theorem encode_squeeze_fields {w : CmdWord} (h : rowMatches squeezeMask squeezeMatch w = true) :
    (encode (.squeeze (fieldLen w))).1 = w := by
  rw [encode, setWidth_fieldLen]
  exact eq_or_of_rowMatches h

theorem encode_reset_word {w : CmdWord} (h : rowMatches resetMask resetMatch w = true) : (encode .reset).1 = w := by
  have hword := eq_or_of_rowMatches h
  rw [resetMask] at hword
  simpa [encode] using hword

theorem encode_rdsr_fields {w : CmdWord} (h : rowMatches rdsrMask rdsrMatch w = true) :
    (encode (.rdsr (fieldIdx w))).1 = w := by
  rw [encode, setWidth_fieldIdx]
  exact eq_or_of_rowMatches h

theorem decode_command_iff {w : CmdWord} {din rest : List Byte} {i : Instr} : decode w din = .command i rest ↔
    decodeWord w (din.take (payloadLen w)) = some i ∧ payloadLen w ≤ din.length ∧ rest = din.drop (payloadLen w) := by
  unfold decode
  split
  next h => simp [h]
  next j h =>
    split <;> simp [*, eq_comm]

/-- What decodes is the encoding of what it decodes to. -/
theorem encode_decode {w : CmdWord} {din rest : List Byte} {i : Instr} (h : decode w din = .command i rest) :
    i.wellFormed = true ∧ i.trim = i ∧ (encode i).1 = w ∧ (encode i).2 ++ rest = din := by
  obtain ⟨hdec, hlen, rfl⟩ := decode_command_iff.mp h
  have hnone (hopc : fieldOpc w ≠ 2) : din.drop (payloadLen w) = din := by
    rw [payloadLen_eq, if_neg hopc, List.drop_zero]
  obtain ⟨hrow, heq⟩ | ⟨hrow, heq⟩ | ⟨hrow, heq⟩ | ⟨hrow, heq⟩ | ⟨hrow, heq⟩ | heq :=
    decodeWord_cases w (din.take (payloadLen w))
  · cases hdec.symm.trans heq
    obtain ⟨hopc, -⟩ := (rowMatches_config_iff w).mp hrow
    exact ⟨rfl, rfl, encode_config_fields hrow, hnone (by rw [hopc]; decide)⟩
  · cases hdec.symm.trans heq
    have hceil : ceil8 (fieldLen w).toNat = payloadLen w := by rw [payloadLen, if_pos hrow]
    have htake : (din.take (payloadLen w)).take (payloadLen w) = din.take (payloadLen w) := by
      rw [List.take_take, Nat.min_self]
    refine ⟨?_, ?_, encode_absorb_fields hrow _, ?_⟩
    · rw [Instr.wellFormed, hceil, List.length_take_of_le hlen, decide_eq_true le_rfl]
    · rw [Instr.trim, hceil, htake]
    · rw [encode, hceil, htake, List.take_append_drop]
  · cases hdec.symm.trans heq
    have hopc := (rowMatches_squeeze_iff w).mp hrow
    exact ⟨rfl, rfl, encode_squeeze_fields hrow, hnone (by rw [hopc]; decide)⟩
  · cases hdec.symm.trans heq
    obtain ⟨hopc, -⟩ := (rowMatches_reset_iff w).mp hrow
    exact ⟨rfl, rfl, encode_reset_word hrow, hnone (by rw [hopc]; decide)⟩
  · cases hdec.symm.trans heq
    obtain ⟨hopc, -⟩ := (rowMatches_rdsr_iff w).mp hrow
    exact ⟨rfl, rfl, encode_rdsr_fields hrow, hnone (by rw [hopc]; decide)⟩
  · cases hdec.symm.trans heq

end Sys2Proof
end

section
/-! The statements on the round trips of the encoding (30_encoding.md). -/

open Sys2Proof Sys2Proof.Machine

/-- Settles O2: an encoded word lies in its own row, and its fields are the operands. -/
theorem decodeEncodeRoundTrip : Obligations.DecodeEncodeRoundTrip := fun _ rest h => decode_encode h rest

/-- Settles O3: a word that matches a row is the row's fixed bits and its fields, and the payload is what was taken. -/
theorem encodeDecodeRoundTrip : Obligations.EncodeDecodeRoundTrip := fun _ _ _ _ => encode_decode

/-- Settles O1: the decoder evaluated on the words of V20. -/
theorem specWordsDecode : Obligations.SpecWordsDecode := by
  unfold Obligations.SpecWordsDecode
  decide

end

section
/-! State bits, the block XOR and the round sequence (20_memory.md, 41_permutation.md R124, 42_block_ops.md R140). -/

namespace Sys2Proof.Machine

theorem bytesOfLanes_getLsbD (A : Lanes) (b : Fin 1600) :
    ((bytesOfLanes A)[b.val / 8]).getLsbD (b.val % 8) = (A[b.val / 64]).getLsbD (b.val % 64) := by
  have hlane : b.val / 8 / 8 = b.val / 64 := by omega
  have hbit : 8 * (b.val / 8 % 8) + b.val % 8 = b.val % 64 := by omega
  have hlt : b.val % 8 < 8 := by omega
  rw [bytesOfLanes_get, sByte, BitVec.getLsbD_extractLsb', decide_eq_true hlt, Bool.true_and]
  simp only [hlane, hbit]

/-- Eight bytes put together, least significant first: the lane of a block. -/
def laneOfBlock (block : List Byte) (i : Nat) : Lane :=
  (List.range 8).foldl (fun v k => v ||| (block.getD (8 * i + k) 0).setWidth 64 <<< (8 * k)) 0

theorem laneOfBlock_extractLsb' (block : List Byte) (i : Nat) (k : Fin 8) :
    (laneOfBlock block i).extractLsb' (8 * k.val) 8 = block.getD (8 * i + k.val) 0 := by
  have byteAt (x : Byte) (q : Nat) := extractLsb'_byte_shiftLeft x q k
  have hzero : (0 : Lane).extractLsb' (8 * k.val) 8 = 0 := by simp
  simp only [laneOfBlock, List.range_succ, List.range_zero, List.nil_append, List.cons_append, List.foldl_cons,
    List.foldl_nil, BitVec.extractLsb'_or, byteAt, hzero]
  fin_cases k <;> simp

theorem xorBlock_get_extractLsb' (n : Nat) (block : List Byte) (A : Lanes) (i : Fin 25) (k : Fin 8) :
    ((xorBlock n block A)[i]).extractLsb' (8 * k.val) 8 =
      if 8 * i.val + k.val < n then (A[i]).extractLsb' (8 * k.val) 8 ^^^ block.getD (8 * i.val + k.val) 0
      else (A[i]).extractLsb' (8 * k.val) 8 := by
  rw [← bytesOfLanes_get_byte, ← bytesOfLanes_get_byte]
  exact bytesOfLanes_xorBlock_get n block A ⟨8 * i.val + k.val, by omega⟩

/-- With whole lanes in the block, the XOR takes lane by lane. -/
theorem xorBlock_get {n : Nat} (hn : n % 8 = 0) (block : List Byte) (A : Lanes) (i : Fin 25) :
    (xorBlock n block A)[i] = if i.val < n / 8 then A[i] ^^^ laneOfBlock block i.val else A[i] := by
  apply lane_eq_of_bytes_eq
  intro k
  rw [xorBlock_get_extractLsb']
  by_cases hi : i.val < n / 8
  · rw [if_pos (by omega), if_pos hi, BitVec.extractLsb'_xor, laneOfBlock_extractLsb']
  · rw [if_neg (by omega), if_neg hi]

/-- Counting the rounds along gives their fold. -/
theorem iterate_counting_rounds (A : Lanes) (n : Nat) :
    (fun p : Nat × Lanes => (p.1 + 1, iota (Fin.ofNat 24 p.1) (chi (pi (rho (theta p.2))))))^[n] (0, A) =
      (n, (List.range n).foldl (fun B r => keccakRound (Fin.ofNat 24 r) B) A) := by
  induction n with
  | zero => rfl
  | succ n ih =>
    rw [Function.iterate_succ_apply', ih, List.range_succ, List.foldl_concat]
    rfl

theorem permute_eq_foldl_range (A : Lanes) :
    permute A = (List.range 24).foldl (fun B r => keccakRound (Fin.ofNat 24 r) B) A := by
  have hrounds : (List.range 24).map (Fin.ofNat 24) = List.finRange 24 := by decide
  rw [permute, ← hrounds, List.foldl_map]

end Sys2Proof.Machine
end

section
/-! The statements on state bits, the block XOR and the round sequence. -/

open Sys2Proof Sys2Proof.Machine

/-- Settles O20: byte `b div 8` is eight bits of lane `b div 64`. -/
theorem stateBitNumbering : Obligations.StateBitNumbering := fun A b => (bytesOfLanes_getLsbD A b).symm

/-- Settles O23: lane by lane the XOR is with the block's eight bytes, put together as a lane. -/
theorem blockXorByLanes : Obligations.BlockXorByLanes := by
  intro A block rate hrate _ _ i
  have hlanes : rate / 8 / 8 = rate / 64 := by omega
  rw [xorBlock_get (by omega) block A i, hlanes]
  rfl

/-- Settles O54: both are known byte by byte, and neither reads a byte of the region. -/
theorem xorKeepsAndRefillIgnoresTheCapacityRegion : Obligations.XorKeepsAndRefillIgnoresTheCapacityRegion := by
  refine ⟨fun A n block j hj => ?_, fun s A hA => ?_⟩
  · rw [bytesOfLanes_xorBlock_get, if_neg (Nat.not_lt.mpr hj)]
  · ext1 j hj
    have hget := extractToQueue_Q_get { s with A := A } ⟨j, hj⟩
    have hget' := extractToQueue_Q_get s ⟨j, hj⟩
    by_cases hlt : j < s.rate.toNat / 8
    · exact hget.trans ((if_pos hlt).trans ((hA ⟨j, hj⟩ hlt).trans (hget'.trans (if_pos hlt)).symm))
    · exact hget.trans ((if_neg hlt).trans (hget'.trans (if_neg hlt)).symm)

/-- Settles O18: the counted iteration is the fold over the round indices; the two lanes are evaluated. -/
theorem permuteIsTwentyFourRounds : Obligations.PermuteIsTwentyFourRounds := by
  refine ⟨fun A => ?_, by decide +kernel, by decide +kernel⟩
  rw [iterate_counting_rounds, permute_eq_foldl_range]

end
